-- ==== Sys2Proof/Word.lean ====
section
/-!
DEFINITION. The word types of the block: the byte of the buffer (R8) and the two big-endian field widths (R10). Every value is unsigned (R9).
-/

namespace Sys2Proof

/-- A byte, `v[7:0]` (R8). -/
abbrev Byte := BitVec 8

/-- A channel number, 16 bits, unsigned (R66). -/
abbrev Channel := BitVec 16

/-- A payload length field, 32 bits, unsigned (R67). -/
abbrev Length := BitVec 32

end Sys2Proof
end

