-- ==== Sys2Proof/Syntax.lean ====
section
/-!
DEFINITION. The instructions of the block: one constructor per row of spec/opcode_table.json (R14). An instruction is the 7-byte header of a frame (R64),
its type tag matched to a row and its channel and length fields as operands. The payload and the frame-end byte are memory operands: the meanings read
them from the buffer at the request offset. A constructor of a row whose mask leaves bits of the tag open holds the whole tag; `WellFormed` says which
tags the row matches.
-/

namespace Sys2Proof

/-- A frame header, by the row of the opcode table its type tag matches (R69, R70). `ch` is the channel field, `len` the payload length field `L`. -/
inductive Instr where
  /-- METHOD, tag 0x01 (R106). -/
  | method (ch : Channel) (len : Length)
  /-- HEADER, tag 0x02 (R107). -/
  | header (ch : Channel) (len : Length)
  /-- BODY, tag 0x03 (R108). -/
  | body (ch : Channel) (len : Length)
  /-- HEARTBEAT, tag 0x08 (R109). -/
  | heartbeat (ch : Channel) (len : Length)
  /-- UNKNOWN, match 0x00, mask 0xFF (R110). -/
  | unknown00 (ch : Channel) (len : Length)
  /-- UNKNOWN, match 0x04, mask 0xFC: tags 0x04 to 0x07. -/
  | unknown04 (tag : Byte) (ch : Channel) (len : Length)
  /-- UNKNOWN, match 0x09, mask 0xFF. -/
  | unknown09 (ch : Channel) (len : Length)
  /-- UNKNOWN, match 0x0A, mask 0xFE: tags 0x0A and 0x0B. -/
  | unknown0A (tag : Byte) (ch : Channel) (len : Length)
  /-- UNKNOWN, match 0x0C, mask 0xFC: tags 0x0C to 0x0F. -/
  | unknown0C (tag : Byte) (ch : Channel) (len : Length)
  /-- UNKNOWN, match 0x10, mask 0xF0: tags 0x10 to 0x1F. -/
  | unknown10 (tag : Byte) (ch : Channel) (len : Length)
  /-- UNKNOWN, match 0x20, mask 0xE0: tags 0x20 to 0x3F. -/
  | unknown20 (tag : Byte) (ch : Channel) (len : Length)
  /-- UNKNOWN, match 0x40, mask 0xC0: tags 0x40 to 0x7F. -/
  | unknown40 (tag : Byte) (ch : Channel) (len : Length)
  /-- UNKNOWN, match 0x80, mask 0x80: tags 0x80 to 0xFF. -/
  | unknown80 (tag : Byte) (ch : Channel) (len : Length)
deriving DecidableEq, Repr

end Sys2Proof
end

