-- ==== Sys2Proof/WellFormed.lean ====
section
/-!
DEFINITION. Which terms of `Instr` an encoding stands for: in a row whose mask leaves tag bits open, the tag agrees with the row's match value under the
row's mask (spec/opcode_table.json, R70). Channel and length take every value of their widths (R66, R72).
-/

namespace Sys2Proof

/-- A tag matches a row with this match value and mask (R69: all 8 bits take part through the mask). -/
def tagMatches (row : Byte × Byte) (tag : Byte) : Bool :=
  tag &&& row.2 == row.1

/-- The instruction's tag belongs to its row. -/
def Instr.wellFormed : Instr → Bool
  | .method _ _ => true
  | .header _ _ => true
  | .body _ _ => true
  | .heartbeat _ _ => true
  | .unknown00 _ _ => true
  | .unknown04 tag _ _ => tagMatches (0x04#8, 0xFC#8) tag
  | .unknown09 _ _ => true
  | .unknown0A tag _ _ => tagMatches (0x0A#8, 0xFE#8) tag
  | .unknown0C tag _ _ => tagMatches (0x0C#8, 0xFC#8) tag
  | .unknown10 tag _ _ => tagMatches (0x10#8, 0xF0#8) tag
  | .unknown20 tag _ _ => tagMatches (0x20#8, 0xE0#8) tag
  | .unknown40 tag _ _ => tagMatches (0x40#8, 0xC0#8) tag
  | .unknown80 tag _ _ => tagMatches (0x80#8, 0x80#8) tag

end Sys2Proof
end

