-- ==== Sys2Proof/Decode.lean ====
section
/-!
DEFINITION. Decoding a frame header (R64, R69, R70, R90) and encoding one. The decoder is total on any bytes: it takes the 7 header bytes from the front
of a byte list, answers the row's instruction with its fields and the rest of the list, or refuses by name.
-/

namespace Sys2Proof

/-- Why a byte list is no instruction. -/
inductive DecodeError where
  /-- Fewer than the 7 header bytes (R74, R89). -/
  | shortHeader
  /-- No row of the opcode table matches the tag. The rows cover every tag (R14), so no byte list gives this. -/
  | noRow (tag : Byte)
deriving DecidableEq, Repr

/-- `be16` of R10: the first byte is the more significant (R49). -/
def be16 (b0 b1 : Byte) : BitVec 16 := b0 ++ b1

/-- `be32` of R10. -/
def be32 (b0 b1 b2 b3 : Byte) : BitVec 32 := b0 ++ b1 ++ b2 ++ b3

/-- `bytes16` of R10, the inverse of `be16`. -/
def bytes16 (v : BitVec 16) : List Byte := [v.extractLsb' 8 8, v.extractLsb' 0 8]

/-- `bytes32` of R10, the inverse of `be32`. -/
def bytes32 (v : BitVec 32) : List Byte :=
  [v.extractLsb' 24 8, v.extractLsb' 16 8, v.extractLsb' 8 8, v.extractLsb' 0 8]

/-- The rows of spec/opcode_table.json in its order: match value and mask of the type tag (R14, R69, R70). -/
def opcodeRows : List (Byte × Byte) :=
  [(0x01, 0xFF), (0x02, 0xFF), (0x03, 0xFF), (0x08, 0xFF), (0x00, 0xFF), (0x04, 0xFC), (0x09, 0xFF), (0x0A, 0xFE), (0x0C, 0xFC),
   (0x10, 0xF0), (0x20, 0xE0), (0x40, 0xC0), (0x80, 0x80)]

/-- The instruction of a tag and the two header fields: the row whose match and mask take the tag (R69, R70). -/
def decodeTag (tag : Byte) (ch : Channel) (len : Length) : Except DecodeError Instr :=
  if tag = 0x01#8 then .ok (.method ch len)
  else if tag = 0x02#8 then .ok (.header ch len)
  else if tag = 0x03#8 then .ok (.body ch len)
  else if tag = 0x08#8 then .ok (.heartbeat ch len)
  else if tag = 0x00#8 then .ok (.unknown00 ch len)
  else if tagMatches (0x04#8, 0xFC#8) tag then .ok (.unknown04 tag ch len)
  else if tag = 0x09#8 then .ok (.unknown09 ch len)
  else if tagMatches (0x0A#8, 0xFE#8) tag then .ok (.unknown0A tag ch len)
  else if tagMatches (0x0C#8, 0xFC#8) tag then .ok (.unknown0C tag ch len)
  else if tagMatches (0x10#8, 0xF0#8) tag then .ok (.unknown10 tag ch len)
  else if tagMatches (0x20#8, 0xE0#8) tag then .ok (.unknown20 tag ch len)
  else if tagMatches (0x40#8, 0xC0#8) tag then .ok (.unknown40 tag ch len)
  else if tagMatches (0x80#8, 0x80#8) tag then .ok (.unknown80 tag ch len)
  else .error (.noRow tag)

/-- Decode the 7-byte header at the front of a byte list (R64, R90): tag, channel, length; the rest of the list follows. -/
def decode : List Byte → Except DecodeError (Instr × List Byte)
  | t :: c0 :: c1 :: l0 :: l1 :: l2 :: l3 :: rest =>
    (decodeTag t (be16 c0 c1) (be32 l0 l1 l2 l3)).map (fun i => (i, rest))
  | _ => .error .shortHeader

/-- The type tag byte of an instruction. -/
def Instr.tag : Instr → Byte
  | .method _ _ => 0x01
  | .header _ _ => 0x02
  | .body _ _ => 0x03
  | .heartbeat _ _ => 0x08
  | .unknown00 _ _ => 0x00
  | .unknown04 tag _ _ => tag
  | .unknown09 _ _ => 0x09
  | .unknown0A tag _ _ => tag
  | .unknown0C tag _ _ => tag
  | .unknown10 tag _ _ => tag
  | .unknown20 tag _ _ => tag
  | .unknown40 tag _ _ => tag
  | .unknown80 tag _ _ => tag

/-- The channel field of an instruction. -/
def Instr.channel : Instr → Channel
  | .method ch _ => ch
  | .header ch _ => ch
  | .body ch _ => ch
  | .heartbeat ch _ => ch
  | .unknown00 ch _ => ch
  | .unknown04 _ ch _ => ch
  | .unknown09 ch _ => ch
  | .unknown0A _ ch _ => ch
  | .unknown0C _ ch _ => ch
  | .unknown10 _ ch _ => ch
  | .unknown20 _ ch _ => ch
  | .unknown40 _ ch _ => ch
  | .unknown80 _ ch _ => ch

/-- The payload length field of an instruction. -/
def Instr.length : Instr → Length
  | .method _ len => len
  | .header _ len => len
  | .body _ len => len
  | .heartbeat _ len => len
  | .unknown00 _ len => len
  | .unknown04 _ _ len => len
  | .unknown09 _ len => len
  | .unknown0A _ _ len => len
  | .unknown0C _ _ len => len
  | .unknown10 _ _ len => len
  | .unknown20 _ _ len => len
  | .unknown40 _ _ len => len
  | .unknown80 _ _ len => len

/-- The 7 header bytes of an instruction, in the order of R64. -/
def encode (i : Instr) : List Byte :=
  [i.tag] ++ bytes16 i.channel ++ bytes32 i.length

/-- The first `n` bytes of an instruction whose bits are `w`, the byte at the lowest address being bits 7..0 (the host's numbering of the table). -/
def bytesOfBits : Nat → Nat → List Byte
  | 0, _ => []
  | n + 1, w => BitVec.ofNat 8 w :: bytesOfBits n (w / 256)

/-- The bytes of a table word of `nbits` bits: its own bytes, then zeros up to the 8 bytes of the shortest frame (R75). -/
def tableBytes (nbits w : Nat) : List Byte :=
  bytesOfBits (max (nbits / 8) 8) (w % 2 ^ nbits)

/-- What the decoder reads from a table word (the fixed name of the host's question). -/
def decodeTableWord (nbits w : Nat) : Option Instr :=
  match decode (tableBytes nbits w) with
  | .ok (i, _) => some i
  | .error _ => none

end Sys2Proof
end

