-- ==== Sys2Proof/Config.lean ====
section
/-!
DEFINITION. The parameters of a decoder instance (R7), which the spec leaves OPEN. An instance of the state holds them as constant plain data, so that a
statement about every state is a statement about every value of them. No step changes them (R164). N_DECODERS is the number of instances of the state.
DECODE_LATENCY (R173) is time and is not modelled. The one free value of the model stands here too.
-/

namespace Sys2Proof

/-- How a hardware instance hands the payload over (R7, R61). -/
inductive PayloadMode where
  /-- The payload bytes themselves. -/
  | copy
  /-- A window of the buffer, under the host duty of R131. -/
  | borrow
deriving DecidableEq, Repr

/-- The parameters of one instance (R7, R24). -/
structure Params where
  /-- BUF_CAPACITY, the largest BUF_LEN the block accepts (R7, R46). -/
  bufCapacity : Nat
  /-- FRAME_MAX, the largest payload length accepted; also what FRAME_MAX_CFG holds (R7, R40). -/
  frameMax : Length
  /-- PAYLOAD_MODE (R7, R61). -/
  payloadMode : PayloadMode
  /-- REG_BASE, the platform's address of register index 0 (R24, D18). -/
  regBase : Nat
  /-- The platform's distance between two register indices (R24). -/
  regStride : Nat
deriving DecidableEq, Repr

/-- ADDR_WIDTH: the least width in bits that holds BUF_CAPACITY (R7, D13). -/
def Params.addrWidth (p : Params) : Nat :=
  if p.bufCapacity = 0 then 0 else Nat.log2 p.bufCapacity + 1

/-- The parameters at `State.reset`. FRAME_MAX is the spec's default, which disables the check (R7). DESIGN CHOICE (log entries 3, 6, 19): BUF_CAPACITY
is the length of the longest frame (R13), the mode is COPY, the registers stand at base 0 with stride 1; the spec leaves these OPEN. -/
def Params.default : Params :=
  { bufCapacity := 4294967303, frameMax := 0xFFFFFFFF#32, payloadMode := .copy, regBase := 0, regStride := 1 }

/-- A FREE VALUE: the n-th buffer that the model draws where the spec states no result, the contents after a DROP of more bytes than the buffer holds (R136;
DESIGN CHOICE, log entry 23). It has no body, so nothing can be proved of it. -/
opaque Config.freeBytes : Nat → List Byte

end Sys2Proof
end

