-- ==== Sys2Proof/Machine/State.lean ====
section
/-!
DEFINITION. The state of the decoder instances, of the buffers they are given and of the hosts, as plain data, and the state after reset. The machine is
N_DECODERS decoders, of which one is in focus (the one whose step is being taken), a list of buffers, a list of hosts, and a list that says which agent moves
next. Registers are named as in R24.
-/

namespace Sys2Proof.Machine

/-- `FrameType` of R40: a closed enumeration of four values. -/
inductive FrameType where
  | method
  | header
  | body
  | heartbeat
deriving DecidableEq, Repr

/-- The outcomes of a DECODE (R140). -/
inductive Status where
  | ok
  | incomplete
  | unknownType
  | invalidEnd
  | frameTooLarge
  | offsetOutOfRange
deriving DecidableEq, Repr

/-- The registers of R24, and RESP_PAYLOAD (R38), which has no index. -/
inductive Reg where
  | ctrlState
  | reqOffset
  | respValid
  | respStatus
  | respType
  | respDispatch
  | respChannel
  | respLength
  | respPayloadStart
  | respConsumed
  | respErrByte
  | respNeed
  | bufLen
  | frameMaxCfg
  | respPayload
deriving DecidableEq, Repr

/-- What a register read gives: a number, or the bytes of RESP_PAYLOAD. -/
inductive Reading where
  | word (v : Nat)
  | bytes (bs : List Byte)
deriving DecidableEq, Repr

/-- The offset operand of a request: the stream cursor, as in `DECODE cur`, or a number, as in `DECODE 8` (R79, R127). -/
inductive OffsetArg where
  | cursor
  | number (o : Nat)
deriving DecidableEq, Repr

/-- The host's actions on one instance (R79, R125). -/
inductive Op where
  /-- `BUF := [...]` (R126). -/
  | write (bs : List Byte)
  /-- `APPEND [...]` (R126). -/
  | append (bs : List Byte)
  /-- `DROP k` (R136). -/
  | drop (k : Nat)
  /-- `DECODE o`: a request, then the wait for its response (R79, R127, R128). -/
  | decode (o : OffsetArg)
  /-- A request alone, with no wait (the row `request` of R125). -/
  | request (o : OffsetArg)
  /-- The wait alone (the row `wait` of R125). -/
  | wait
  /-- Read a register by name (R129). -/
  | read (r : Reg)
  /-- Read a register at a platform address (R24, R129). -/
  | readAt (addr : Nat)
  /-- `ADVANCE` (R130). -/
  | advance
  /-- `IF <status> GOTO <line>` (R129). -/
  | ifStatus (st : Status) (line : Nat)
  /-- The row `reset` of R125. -/
  | reset
  /-- The host and the session layer no longer use the frames borrowed from the instance (R131). DESIGN CHOICE (log entry 6). -/
  | release
deriving DecidableEq, Repr

/-- The lines of a host program (R79). -/
inductive Action where
  /-- An action on the instance of a number. A host may act on several instances (R128, R139). -/
  | on (inst : Nat) (op : Op)
  /-- `GOTO <line>`. -/
  | goto (line : Nat)
  /-- `ABORT` (R134). -/
  | abort
  /-- `HALT` (R139). -/
  | halt
  /-- Set the stream cursor to 0 for a new stream (R163 (3), R133). DESIGN CHOICE (log entry 14). -/
  | start
deriving DecidableEq, Repr

/-- A decoded frame, as handed to the session layer (R39, R130). -/
structure Frame where
  type : FrameType
  channel : Channel
  payload : List Byte
deriving DecidableEq, Repr

/-- A payload window of the buffer, as a BORROW instance hands it over (R61, R131). -/
structure Window where
  start : Nat
  len : Nat
deriving DecidableEq, Repr

/-- Whether a host still runs its program (R134, R139). -/
inductive RunState where
  | running
  | halted
  /-- Ended by ABORT; `failed` says that the ABORT came after a structural error (R139, log entry 27). -/
  | aborted (failed : Bool)
deriving DecidableEq, Repr

/-- Whose turn it is (R20, R23): an agent, by its number from 0. -/
inductive Turn where
  /-- A host takes its next action (R125). -/
  | host (host : Nat)
  /-- An instance takes its own step, Complete (R85). -/
  | decoder (inst : Nat)
  /-- Some agent causes a Reset event of an instance (R160). -/
  | reset (inst : Nat)
deriving DecidableEq, Repr

/-- The response registers (R24), without RESP_VALID. Registers of ADDR_WIDTH bits hold exact numbers (R12, log entry 4). -/
structure Response where
  /-- RESP_STATUS (R29). -/
  status : BitVec 3
  /-- RESP_TYPE (R30). -/
  type : Byte
  /-- RESP_DISPATCH (R31). -/
  dispatch : BitVec 4
  /-- RESP_CHANNEL (R32). -/
  channel : Channel
  /-- RESP_LENGTH (R33). -/
  length : Length
  /-- RESP_PAYLOAD_START (R34). -/
  payloadStart : Nat
  /-- RESP_CONSUMED (R35). -/
  consumed : Nat
  /-- RESP_ERR_BYTE (R36). -/
  errByte : Byte
  /-- RESP_NEED (R37). -/
  need : BitVec 33
  /-- RESP_PAYLOAD (R38). -/
  payload : List Byte
deriving DecidableEq, Repr

/-- The response registers at their reset values (R42, R43). -/
def Response.zero : Response :=
  { status := 0, type := 0, dispatch := 0, channel := 0, length := 0, payloadStart := 0, consumed := 0, errByte := 0, need := 0,
    payload := [] }

/-- The stored bytes of a buffer: (address, byte) pairs with addresses strictly rising and no entry for an address that reads 0x00. -/
abbrev Memory := List Host.Cell

/-- What an unlisted address reads as. DESIGN CHOICE (log entry 7): the spec gives no contents before the first write. -/
def Memory.unlisted : Byte := 0x00

/-- The canonical form of a memory. -/
def Memory.wf : Memory → Bool
  | [] => true
  | (a, b) :: m => b != Memory.unlisted && m.all (fun c => decide (a < c.1)) && Memory.wf m

/-- A host: one host program with its stream cursor (R79, R125, R133, R135). -/
structure HostAgent where
  /-- The host program, one action a line (R79). -/
  program : List Action
  /-- The line to be taken next, numbered from 1 (R79). -/
  line : Nat
  /-- `cur`, the stream cursor (R133). -/
  cur : Nat
  /-- The current line has begun to wait for a response (R128). -/
  awaiting : Bool
  run : RunState
  /-- The last register value read (R129). -/
  seen : Option Reading
  /-- The frames handed to the session layer, oldest first (R130). -/
  delivered : List Frame
  /-- The instances it has used, each once (R139). -/
  used : List Nat
  /-- A request of this host was answered by a structural error (R139, log entry 27). -/
  structural : Bool
deriving DecidableEq, Repr

/-- One decoder instance: its parameters, its registers (R24), and what the model keeps beside them. -/
structure Decoder where
  /-- The instance's parameters; FRAME_MAX_CFG is `params.frameMax` (R7, R40). -/
  params : Params
  /-- CTRL_STATE (R22). -/
  ctrl : BitVec 2
  /-- REQ_OFFSET (R27). -/
  reqOffset : Nat
  /-- RESP_VALID (R28). -/
  respValid : BitVec 1
  /-- The response registers (R29 to R38). -/
  resp : Response
  /-- BUF_LEN (R46). -/
  bufLen : Nat
  /-- The number of the buffer the instance is given; instances of one number share it (R44). -/
  bufId : Nat
  /-- The payload windows on loan to live frames of a BORROW instance (R131). -/
  borrowed : List Window
  /-- The host whose request has not been waited for (R128). -/
  requester : Option Nat
deriving DecidableEq, Repr

/-- An instance with the contents of its buffer: what a DECODE reads (R21). -/
structure Lane extends Decoder where
  /-- BUF (R47). -/
  buf : Memory
deriving DecidableEq, Repr

/-- The machine: its instances in order are `left`, then `dec`, then `right` (so N_DECODERS is at least 1, R7), and `dec` is the one in focus. -/
structure State where
  left : List Decoder
  dec : Decoder
  right : List Decoder
  /-- The contents of the buffers, by number (R45). -/
  buffers : List Memory
  hosts : List HostAgent
  /-- Which agents move next, in order. When it is empty the default turn is taken (log entry 1). -/
  turns : List Turn
  /-- How many free values have been drawn (log entry 23). -/
  draws : Nat
deriving DecidableEq, Repr

/-- CTRL_STATE 0b00 (R22). -/
def ctrlIdle : BitVec 2 := 0b00#2

/-- CTRL_STATE 0b01 (R22). -/
def ctrlBusy : BitVec 2 := 0b01#2

/-- CTRL_STATE 0b10 (R22). -/
def ctrlDone : BitVec 2 := 0b10#2

/-- CTRL_STATE 0b11, reserved (R22). -/
def ctrlReserved : BitVec 2 := 0b11#2

/-- What stops the machine. -/
inductive Fault where
  /-- A model of the spec has reached CTRL_STATE 0b11 (R22, R159, I8): raised by a Complete of such an instance or a host's action on it. Safe. -/
  | reservedCtrlState
  /-- A host observes RESP_STATUS 6 or 7 (R159, I7): raised by the actions that read RESP_STATUS. Safe. -/
  | reservedStatus
  /-- A read of a buffer index at or beyond BUF_LEN, which is no address (R45, R47): raised by the read of one byte. No DECODE does it. Safe. -/
  | readOutsideBuffer
deriving DecidableEq, Repr

/-- What the model gives no meaning to. -/
inductive Refusal where
  /-- An instruction whose meaning is not written: raised by an arm of `exec`. Safe. -/
  | notModelled (mnemonic : String)
  /-- A Complete where CTRL_STATE is not BUSY (R23, R85): raised by `exec` alone, never by `step`. Safe. -/
  | completeNotEnabled
  /-- A request while BUSY (R138 (a), I14): raised by the request. Safe: the spec gives the host no such step. -/
  | requestWhileBusy
  /-- A buffer write, append or drop while an instance given the buffer is BUSY (R44, R138 (b), I6): raised by those actions. Safe: the spec gives the host
  no such step. -/
  | bufferChangeWhileBusy
  /-- A write or drop of a live borrowed payload window (R138 (c), I5): raised by write, append and drop. Safe: the spec gives the host no such step. -/
  | borrowedWindow
  /-- A buffer longer than BUF_CAPACITY (R138 (d)): raised by write, append and drop. Safe: the spec gives the host no such step. -/
  | overCapacity
  /-- An offset that ADDR_WIDTH bits cannot hold (R84): raised by the request. Safe. -/
  | offsetTooWide
  /-- A drop of a prefix that is not consumed, `k > cur` (R125, R136): raised by drop. Safe: the spec gives the host no such step. -/
  | dropNotConsumed
  /-- An advance while RESP_VALID = 0 (R125): raised by advance. Safe: the spec gives the host no such step. -/
  | advanceNotEnabled
  /-- A wait where nothing is waited for (R125): raised by wait. Safe: the spec gives the host no such step. -/
  | waitNotEnabled
  /-- A read at an address where no register stands (R24): raised by the read. Safe. -/
  | noSuchRegister
  /-- An instance that the machine does not have (R7): raised by `step`. Safe. -/
  | noSuchInstance
  /-- A turn of a host that the machine does not have: raised by `step`. Safe. -/
  | noSuchHost
  /-- A change of the buffer of an instance that is given none: raised by write, append and drop. Safe: no legal machine has such an instance. -/
  | noSuchBuffer
deriving DecidableEq, Repr

/-- A host that has taken no action (R79, R133): `cur` is 0. DESIGN CHOICE (log entry 14): its program is empty. -/
def HostAgent.initial : HostAgent :=
  { program := [], line := 1, cur := 0, awaiting := false, run := .running, seen := none, delivered := [], used := [], structural := false }

/-- An instance after reset (R42), given the buffer of number `b`. -/
def Decoder.initial (p : Params) (b : Nat) : Decoder :=
  { params := p, ctrl := ctrlIdle, reqOffset := 0, respValid := 0, resp := Response.zero, bufLen := 0, bufId := b, borrowed := [],
    requester := none }

/-- The machine right after reset (R42): one instance with one buffer and one host (DESIGN CHOICE, log entry 2: N_DECODERS is OPEN). -/
def State.reset : State :=
  { left := [], dec := Decoder.initial Params.default 0, right := [], buffers := [[]], hosts := [HostAgent.initial], turns := [],
    draws := 0 }

end Sys2Proof.Machine
end

