-- ==== Sys2Proof/Machine/Flags.lean ====
section
/-!
DEFINITION. The only flags are RESP_VALID and the status code (R26). This file holds the status codes and their classes (R140, R151), the frame types'
tags (R40, R69) and the one-hot dispatch code (R76, R105).
-/

namespace Sys2Proof.Machine

/-- The code of a status in RESP_STATUS (R29, R140). -/
def Status.code : Status → BitVec 3
  | .ok => 0
  | .incomplete => 1
  | .unknownType => 2
  | .invalidEnd => 3
  | .frameTooLarge => 4
  | .offsetOutOfRange => 5

/-- RESP_STATUS 6 and 7 are reserved (R140, R159). -/
def statusReserved (c : BitVec 3) : Bool :=
  c == 6#3 || c == 7#3

/-- The permanent classes: every status but OK and INCOMPLETE (R140, R151). -/
def Status.permanent : Status → Bool
  | .ok => false
  | .incomplete => false
  | .unknownType => true
  | .invalidEnd => true
  | .frameTooLarge => true
  | .offsetOutOfRange => true

/-- The structural errors (glossary of 00_scope.md): UnknownFrameType and InvalidFrameEnd. -/
def Status.structural : Status → Bool
  | .ok => false
  | .incomplete => false
  | .unknownType => true
  | .invalidEnd => true
  | .frameTooLarge => false
  | .offsetOutOfRange => false

/-- RESP_STATUS holds a structural error. -/
def structuralCode (c : BitVec 3) : Bool :=
  c == Status.unknownType.code || c == Status.invalidEnd.code

/-- The type tag of a frame type (R40, R69). -/
def FrameType.tag : FrameType → Byte
  | .method => 0x01
  | .header => 0x02
  | .body => 0x03
  | .heartbeat => 0x08

/-- `Kind` of R105, for every byte: the frame type of a recognised tag. -/
def kind (t : Byte) : Option FrameType :=
  if t = 0x01#8 then some .method
  else if t = 0x02#8 then some .header
  else if t = 0x03#8 then some .body
  else if t = 0x08#8 then some .heartbeat
  else none

/-- `onehot` of R105. -/
def FrameType.onehot : FrameType → BitVec 4
  | .method => 0b0001
  | .header => 0b0010
  | .body => 0b0100
  | .heartbeat => 0b1000

/-- The frame type that a one-hot code presents (R76). -/
def ofOnehot (d : BitVec 4) : Option FrameType :=
  if d = 0b0001#4 then some .method
  else if d = 0b0010#4 then some .header
  else if d = 0b0100#4 then some .body
  else if d = 0b1000#4 then some .heartbeat
  else none

/-- The fixed frame-end byte (R73). -/
def frameEnd : Byte := 0xCE

end Sys2Proof.Machine
end

