-- ==== Sys2Proof/Machine/Operands.lean ====
section
/-!
DEFINITION. The operands: the reads of the buffer's storage, one byte at a time (R51), the bytes that a DECODE addresses from its request offset (R59, R64),
and the host's operands (the offset of a request, a register by name or address).
-/

namespace Sys2Proof.Machine

/-- The byte stored at an address. -/
def Memory.read : Memory → Nat → Byte
  | [], _ => Memory.unlisted
  | (a', b) :: m, a => if a = a' then b else if a < a' then Memory.unlisted else Memory.read m a

/-- `MemRead(a, 1)` of R11 and R47: defined only below BUF_LEN. -/
def Lane.memRead (l : Lane) (a : Nat) : Option Byte :=
  if a < l.bufLen then some (Memory.read l.buf a) else none

/-- `n` one-byte reads from `a` on, in buffer order. -/
def Lane.memReadList (l : Lane) (a : Nat) : Nat → Option (List Byte)
  | 0 => some []
  | n + 1 =>
    match l.memRead a with
    | none => none
    | some b => (l.memReadList (a + 1) n).map (fun bs => b :: bs)

/-- The storage bytes at indices `a .. a + n - 1`. -/
def Memory.slice (m : Memory) (a : Nat) : Nat → List Byte
  | 0 => []
  | n + 1 => Memory.read m a :: Memory.slice m (a + 1) n

/-- `BUF[0 .. BUF_LEN)`, the source's buffer (R46). -/
def Lane.bytes (l : Lane) : List Byte :=
  Memory.slice l.buf 0 l.bufLen

/-- `avail` of R88. -/
def Lane.avail (l : Lane) : Nat :=
  l.bufLen - l.reqOffset

/-- The index of the first payload byte (R64). -/
def Lane.payloadIndex (l : Lane) : Nat :=
  l.reqOffset + 7

/-- The index of the frame-end byte (R64). -/
def Lane.endIndex (l : Lane) (len : Length) : Nat :=
  l.reqOffset + 7 + len.toNat

/-- The length of a frame in bytes (R74, R96), an exact number (R12). -/
def frameLength (len : Length) : Nat :=
  7 + len.toNat + 1

/-- What fetching a header gives. -/
inductive Fetch where
  /-- Check 0 or check 1 answers, with the response's need. -/
  | raise (st : Status) (errByte : Byte) (need : BitVec 33)
  /-- The instruction of the header. -/
  | instr (i : Instr)
  /-- A byte of the header is outside the buffer. No state gives this. -/
  | outside
deriving DecidableEq, Repr

/-- Check 0 (R87), check 1 (R89) and the header read (R90) of a request. The rows of the table cover every tag (R14); a tag of no row would be illegal
(R70). Check 0 is answered anew on an extended buffer, as R86 and R102 have it and R151 has not (DEDUCED, log entry 29). -/
def Lane.fetch (l : Lane) : Fetch :=
  if l.bufLen < l.reqOffset then .raise .offsetOutOfRange 0x00 0
  else if l.avail < 7 then .raise .incomplete 0x00 7
  else
    match l.memReadList l.reqOffset 7 with
    | none => .outside
    | some bs =>
      match decode bs with
      | .ok (i, _) => .instr i
      | .error .shortHeader => .raise .incomplete 0x00 7
      | .error (.noRow tag) => .raise .unknownType tag 0

/-- The offset a request asks for (R79). -/
def OffsetArg.value (h : HostAgent) : OffsetArg → Nat
  | .cursor => h.cur
  | .number o => o

/-- The index of a register (R24). RESP_PAYLOAD has none. -/
def Reg.index : Reg → Option Nat
  | .ctrlState => some 0x00
  | .reqOffset => some 0x01
  | .respValid => some 0x02
  | .respStatus => some 0x03
  | .respType => some 0x04
  | .respDispatch => some 0x05
  | .respChannel => some 0x06
  | .respLength => some 0x07
  | .respPayloadStart => some 0x08
  | .respConsumed => some 0x09
  | .respErrByte => some 0x0A
  | .respNeed => some 0x0B
  | .bufLen => some 0x0C
  | .frameMaxCfg => some 0x0D
  | .respPayload => none

/-- The registers that have an index, in index order (R24). -/
def Reg.indexed : List Reg :=
  [.ctrlState, .reqOffset, .respValid, .respStatus, .respType, .respDispatch, .respChannel, .respLength, .respPayloadStart,
   .respConsumed, .respErrByte, .respNeed, .bufLen, .frameMaxCfg]

/-- The platform's address of a register: base plus index times stride (R24). -/
def regAddress (p : Params) (r : Reg) : Option Nat :=
  r.index.map (fun k => p.regBase + k * p.regStride)

/-- The register that stands at a platform address. -/
def regAtAddress (p : Params) (addr : Nat) : Option Reg :=
  Reg.indexed.find? (fun r => regAddress p r == some addr)

/-- The value of a register (R24). Reading has no side effect (R129). -/
def Decoder.readReg (d : Decoder) : Reg → Reading
  | .ctrlState => .word d.ctrl.toNat
  | .reqOffset => .word d.reqOffset
  | .respValid => .word d.respValid.toNat
  | .respStatus => .word d.resp.status.toNat
  | .respType => .word d.resp.type.toNat
  | .respDispatch => .word d.resp.dispatch.toNat
  | .respChannel => .word d.resp.channel.toNat
  | .respLength => .word d.resp.length.toNat
  | .respPayloadStart => .word d.resp.payloadStart
  | .respConsumed => .word d.resp.consumed
  | .respErrByte => .word d.resp.errByte.toNat
  | .respNeed => .word d.resp.need.toNat
  | .bufLen => .word d.bufLen
  | .frameMaxCfg => .word d.params.frameMax.toNat
  | .respPayload => .bytes d.resp.payload

/-- The action on the host's current line, lines being numbered from 1 (R79); none where the program has no such line. -/
def HostAgent.action (h : HostAgent) : Option Action :=
  if h.line = 0 then none else h.program[h.line - 1]?

/-- The contents of a buffer. A number that names no buffer stands for one that nothing has written. -/
def State.buffer (s : State) (b : Nat) : Memory :=
  s.buffers.getD b []

/-- The instance in focus with its buffer. -/
def State.lane (s : State) : Lane :=
  { s.dec with buf := s.buffer s.dec.bufId }

/-- The instances of the machine, in order. -/
def State.decs (s : State) : List Decoder :=
  s.left ++ s.dec :: s.right

/-- The number of the instance in focus. -/
def State.focused (s : State) : Nat :=
  s.left.length

/-- Some instance that is given the focused instance's buffer is BUSY (R44, R53). -/
def State.sharedBusy (s : State) : Bool :=
  s.decs.any (fun d => d.bufId == s.dec.bufId && d.ctrl == ctrlBusy)

/-- The least BUF_CAPACITY of the instances that are given the focused instance's buffer (R46). -/
def State.capacity (s : State) : Nat :=
  s.decs.foldr (fun d c => if d.bufId = s.dec.bufId then min d.params.bufCapacity c else c) s.dec.params.bufCapacity

/-- A range of indices `[lo, hi)` meets a non-empty window (R131). -/
def Window.meets (w : Window) (lo hi : Nat) : Bool :=
  decide (w.len ≠ 0) && decide (lo < hi) && decide (lo < w.start + w.len) && decide (w.start < hi)

/-- Some window that an instance has lent meets the range. Only a BORROW instance lends windows (R131). -/
def Decoder.onLoan (d : Decoder) (lo hi : Nat) : Bool :=
  d.borrowed.any (fun w => w.meets lo hi)

/-- Some live window of the focused instance's buffer, lent by any instance that is given it, meets the range. -/
def State.onLoan (s : State) (lo hi : Nat) : Bool :=
  s.decs.any (fun d => d.bufId == s.dec.bufId && d.onLoan lo hi)

end Sys2Proof.Machine
end

