-- ==== Sys2Proof/Machine/Ops.lean ====
section
/-!
DEFINITION. The named operations over the state: writes of the buffer, Accept, the two responses of Complete (the error response is the one shared way an
error is entered, R142), Reset, the checks shared by the four known frame types, the one way a host changes a buffer, and the choice of the agent that moves.
-/

namespace Sys2Proof.Machine

/-- Store one byte. The canonical form is kept: the value an unlisted address reads as is not listed. -/
def Memory.write : Memory → Nat → Byte → Memory
  | [], a, b => if b = Memory.unlisted then [] else [(a, b)]
  | (a', b') :: m, a, b =>
    if a < a' then (if b = Memory.unlisted then (a', b') :: m else (a, b) :: (a', b') :: m)
    else if a = a' then (if b = Memory.unlisted then m else (a, b) :: m)
    else (a', b') :: Memory.write m a b

/-- Store bytes from an address on, in order. -/
def Memory.writeList : Memory → Nat → List Byte → Memory
  | m, _, [] => m
  | m, a, b :: bs => Memory.writeList (Memory.write m a b) (a + 1) bs

/-- Keep only the bytes below an address. -/
def Memory.below (m : Memory) (a : Nat) : Memory :=
  m.filter (fun c => decide (c.1 < a))

/-- Accept(o) of R84: the offset is latched, the response is cleared, the instance becomes BUSY. -/
def Decoder.accept (d : Decoder) (o : Nat) : Decoder :=
  { d with reqOffset := o, respValid := 0, resp := Response.zero, ctrl := ctrlBusy }

/-- Reset of R160: every register takes the value of R42; the parameters stay, and no buffer's contents are touched. -/
def Decoder.resetRegs (d : Decoder) : Decoder :=
  { d with ctrl := ctrlIdle, reqOffset := 0, respValid := 0, resp := Response.zero, bufLen := 0 }

/-- The error response of R142: the status code, the diagnostic byte and the need; no frame. -/
def Response.error (st : Status) (errByte : Byte) (need : BitVec 33) : Response :=
  { Response.zero with status := st.code, errByte := errByte, need := need }

/-- The success response of R100, for a frame at request offset `o`. -/
def Response.success (o : Nat) (t : FrameType) (ch : Channel) (len : Length) (payload : List Byte) : Response :=
  { status := Status.ok.code, type := t.tag, dispatch := t.onehot, channel := ch, length := len, payloadStart := o + 7,
    consumed := frameLength len, errByte := 0x00, need := 0, payload := payload }

/-- The windows on loan after a response: a BORROW instance lends the payload window of a frame it presents (R61, R131). -/
def Decoder.lend (d : Decoder) (r : Response) : List Window :=
  if d.params.payloadMode = .borrow ∧ r.status = Status.ok.code then
    { start := r.payloadStart, len := r.length.toNat } :: d.borrowed
  else d.borrowed

/-- The registers after a Complete that gives response `r` (R85). -/
def Decoder.complete (d : Decoder) (r : Response) : Decoder :=
  { d with resp := r, respValid := 1, ctrl := ctrlDone, borrowed := d.lend r }

/-- Complete with a response: enabled exactly when CTRL_STATE = BUSY (R85). -/
def Lane.finish (l : Lane) (r : Response) : Host.Outcome Decoder Fault Refusal :=
  if l.ctrl = ctrlBusy then .next (l.complete r)
  else if l.ctrl = ctrlReserved then .fault .reservedCtrlState
  else .refused .completeNotEnabled

/-- `raise` of R11: Complete with the error response (R142). -/
def Lane.raise (l : Lane) (st : Status) (errByte : Byte) (need : BitVec 33) : Host.Outcome Decoder Fault Refusal :=
  l.finish (Response.error st errByte need)

/-- `RESP_NEED` of check 4: `7 + L + 1` in 33 bits (R37, R93). -/
def needOf (len : Length) : BitVec 33 :=
  BitVec.ofNat 33 (frameLength len)

/-- The last part of a known frame: check 5 (R94), then the payload (R97) and the success response (R100). The payload is read only once the end byte is
found to be 0xCE, as R86 has it; R51 lists its indices as read by then, whatever the end byte is (DEDUCED, log entry 31). -/
def Lane.closeFrame (l : Lane) (t : FrameType) (ch : Channel) (len : Length) : Host.Outcome Decoder Fault Refusal :=
  match l.memRead (l.endIndex len) with
  | none => .fault .readOutsideBuffer
  | some e =>
    if e ≠ frameEnd then l.raise .invalidEnd e 0
    else
      match l.memReadList l.payloadIndex len.toNat with
      | none => .fault .readOutsideBuffer
      | some payload => l.finish (Response.success l.reqOffset t ch len payload)

/-- A header with a known tag, after check 2: check 3 (R92), check 4 (R93), then the end byte and the payload. -/
def Lane.knownFrame (l : Lane) (t : FrameType) (ch : Channel) (len : Length) : Host.Outcome Decoder Fault Refusal :=
  if l.params.frameMax.toNat < len.toNat then l.raise .frameTooLarge 0x00 0
  else if l.avail - 7 < len.toNat + 1 then l.raise .incomplete 0x00 (needOf len)
  else l.closeFrame t ch len

/-- A header with an illegal tag: check 2 answers (R91, R110). -/
def Lane.unknownFrame (l : Lane) (tag : Byte) : Host.Outcome Decoder Fault Refusal :=
  l.raise .unknownType tag 0

/-- A step of the instance in focus, as a step of the machine. -/
def State.onLane (s : State) (o : Host.Outcome Decoder Fault Refusal) : Host.Outcome State Fault Refusal :=
  match o with
  | .next d => .next { s with dec := d }
  | .fault r => .fault r
  | .refused r => .refused r

/-- Bring an instance into focus. Nothing else changes. -/
def State.focus (s : State) (k : Nat) : Option State :=
  match s.decs.drop k with
  | [] => none
  | d :: rest => some { s with left := s.decs.take k, dec := d, right := rest }

/-- An instance after buffer `b` has come to hold `n` bytes: BUF_LEN is `n` where the instance is given that buffer (R44, R46; log entry 9). -/
def Decoder.resized (d : Decoder) (b n : Nat) : Decoder :=
  if d.bufId = b then { d with bufLen := n } else d

/-- Replace the contents of the focused instance's buffer, for every instance that is given it (R44, R126; log entry 9). -/
def State.replaceBuffer (s : State) (m : Memory) (n : Nat) : State :=
  { s with left := s.left.map (fun d => d.resized s.dec.bufId n),
           dec := s.dec.resized s.dec.bufId n,
           right := s.right.map (fun d => d.resized s.dec.bufId n),
           buffers := s.buffers.set s.dec.bufId m }

/-- The one way a host changes a buffer (R44, R53, R126, R138): no instance that is given it is BUSY, the new length is within every BUF_CAPACITY, and the
change meets no live window. -/
def State.changeBuffer (s : State) (lent : Bool) (m : Memory) (n : Nat) : Host.Outcome State Fault Refusal :=
  if s.sharedBusy = true then .refused .bufferChangeWhileBusy
  else if s.capacity < n then .refused .overCapacity
  else if lent = true then .refused .borrowedWindow
  else if s.buffers.length ≤ s.dec.bufId then .refused .noSuchBuffer
  else .next (s.replaceBuffer m n)

/-- Put a host back in its place. -/
def State.setHost (s : State) (no : Nat) (h : HostAgent) : State :=
  { s with hosts := s.hosts.set no h }

/-- Where the response that the focused instance has just written is a structural error, the host that requested it is marked (R139, log entry 27). -/
def State.noteError (s : State) : State :=
  match s.dec.requester with
  | none => s
  | some no =>
    if structuralCode s.dec.resp.status = true then { s with hosts := s.hosts.modify no (fun h => { h with structural := true }) } else s

/-- The number of the first BUSY instance of a list. -/
def firstBusy : List Decoder → Option Nat
  | [] => none
  | d :: ds => if d.ctrl = ctrlBusy then some 0 else (firstBusy ds).map (fun k => k + 1)

/-- The number of the first host of a list that still has a line to take. -/
def firstRunning : List HostAgent → Option Nat
  | [] => none
  | h :: hs => if h.run = .running ∧ h.action.isSome = true then some 0 else (firstRunning hs).map (fun k => k + 1)

/-- Whose turn it is. When no turn is listed a BUSY instance completes (R175), and when none is BUSY the first host that has a line to take moves (log
entry 1). -/
def State.nextTurn (s : State) : Turn :=
  match s.turns with
  | t :: _ => t
  | [] =>
    match firstBusy s.decs with
    | some k => .decoder k
    | none => .host ((firstRunning s.hosts).getD 0)

/-- The machine with its next turn used up. -/
def State.usedTurn (s : State) : State :=
  { s with turns := s.turns.tail }

end Sys2Proof.Machine
end

