-- ==== Sys2Proof/Machine/Frames.lean ====
section
/-!
DEFINITION. The meanings of the four known frame types (R106 to R109): checks 3 to 5 and the success response of DECODE, with the type's tag and one-hot code.
The dispatcher checks nothing of a type's payload or channel (R111).
-/

namespace Sys2Proof.Machine

/-- METHOD (R106). -/
def execMethod (ch : Channel) (len : Length) (s : State) : Host.Outcome State Fault Refusal :=
  s.onLane (s.lane.knownFrame .method ch len)

/-- HEADER (R107). -/
def execHeader (ch : Channel) (len : Length) (s : State) : Host.Outcome State Fault Refusal :=
  s.onLane (s.lane.knownFrame .header ch len)

/-- BODY (R108). -/
def execBody (ch : Channel) (len : Length) (s : State) : Host.Outcome State Fault Refusal :=
  s.onLane (s.lane.knownFrame .body ch len)

/-- HEARTBEAT (R109): a payload or a channel other than 0 is passed on. -/
def execHeartbeat (ch : Channel) (len : Length) (s : State) : Host.Outcome State Fault Refusal :=
  s.onLane (s.lane.knownFrame .heartbeat ch len)

end Sys2Proof.Machine
end

