-- ==== Sys2Proof/Machine/Unknown.lean ====
section
/-!
DEFINITION. The meanings of the nine UNKNOWN rows (R110): UNKNOWN_TYPE with the tag as the diagnostic byte. Channel and length are read but not reported.
-/

namespace Sys2Proof.Machine

/-- UNKNOWN, tag 0x00 (R110). -/
def execUnknown00 (_ch : Channel) (_len : Length) (s : State) : Host.Outcome State Fault Refusal :=
  s.onLane (s.lane.unknownFrame 0x00)

/-- UNKNOWN, tags 0x04 to 0x07 (R110). -/
def execUnknown04 (tag : Byte) (_ch : Channel) (_len : Length) (s : State) : Host.Outcome State Fault Refusal :=
  s.onLane (s.lane.unknownFrame tag)

/-- UNKNOWN, tag 0x09 (R110). -/
def execUnknown09 (_ch : Channel) (_len : Length) (s : State) : Host.Outcome State Fault Refusal :=
  s.onLane (s.lane.unknownFrame 0x09)

/-- UNKNOWN, tags 0x0A and 0x0B (R110). -/
def execUnknown0A (tag : Byte) (_ch : Channel) (_len : Length) (s : State) : Host.Outcome State Fault Refusal :=
  s.onLane (s.lane.unknownFrame tag)

/-- UNKNOWN, tags 0x0C to 0x0F (R110). -/
def execUnknown0C (tag : Byte) (_ch : Channel) (_len : Length) (s : State) : Host.Outcome State Fault Refusal :=
  s.onLane (s.lane.unknownFrame tag)

/-- UNKNOWN, tags 0x10 to 0x1F (R110). -/
def execUnknown10 (tag : Byte) (_ch : Channel) (_len : Length) (s : State) : Host.Outcome State Fault Refusal :=
  s.onLane (s.lane.unknownFrame tag)

/-- UNKNOWN, tags 0x20 to 0x3F (R110). -/
def execUnknown20 (tag : Byte) (_ch : Channel) (_len : Length) (s : State) : Host.Outcome State Fault Refusal :=
  s.onLane (s.lane.unknownFrame tag)

/-- UNKNOWN, tags 0x40 to 0x7F (R110). -/
def execUnknown40 (tag : Byte) (_ch : Channel) (_len : Length) (s : State) : Host.Outcome State Fault Refusal :=
  s.onLane (s.lane.unknownFrame tag)

/-- UNKNOWN, tags 0x80 to 0xFF (R110). -/
def execUnknown80 (tag : Byte) (_ch : Channel) (_len : Length) (s : State) : Host.Outcome State Fault Refusal :=
  s.onLane (s.lane.unknownFrame tag)

end Sys2Proof.Machine
end

