-- ==== Sys2Proof/Machine/Dispatch.lean ====
section
/-!
DEFINITION. One arm per constructor of Instr: the type dispatch of R105 to R110.
-/

namespace Sys2Proof.Machine

def exec (i : Instr) (s : State) : Host.Outcome State Fault Refusal :=
  match i with
  | .method ch len => Sys2Proof.Machine.execMethod ch len s
  | .header ch len => Sys2Proof.Machine.execHeader ch len s
  | .body ch len => Sys2Proof.Machine.execBody ch len s
  | .heartbeat ch len => Sys2Proof.Machine.execHeartbeat ch len s
  | .unknown00 ch len => Sys2Proof.Machine.execUnknown00 ch len s
  | .unknown04 tag ch len => Sys2Proof.Machine.execUnknown04 tag ch len s
  | .unknown09 ch len => Sys2Proof.Machine.execUnknown09 ch len s
  | .unknown0A tag ch len => Sys2Proof.Machine.execUnknown0A tag ch len s
  | .unknown0C tag ch len => Sys2Proof.Machine.execUnknown0C tag ch len s
  | .unknown10 tag ch len => Sys2Proof.Machine.execUnknown10 tag ch len s
  | .unknown20 tag ch len => Sys2Proof.Machine.execUnknown20 tag ch len s
  | .unknown40 tag ch len => Sys2Proof.Machine.execUnknown40 tag ch len s
  | .unknown80 tag ch len => Sys2Proof.Machine.execUnknown80 tag ch len s

end Sys2Proof.Machine
end

