-- ==== Sys2Proof/Machine/Complete.lean ====
section
/-!
DEFINITION. The instance's own turn (R85): where a request is held, fetch the header at REQ_OFFSET, and run the instruction it decodes to, or give the error
response of check 0 or check 1. An instance that holds no request has no step (R23): its turn passes.
-/

namespace Sys2Proof.Machine

/-- Complete of the focused instance: the response of its request (R85). -/
def completeStep (s : State) : Host.Outcome State Fault Refusal :=
  match s.lane.fetch with
  | .raise st errByte need => s.onLane (s.lane.raise st errByte need)
  | .instr i => exec i s
  | .outside => .fault .readOutsideBuffer

/-- What `step` keeps beside a Complete: the mark of a host whose request a structural error answers (R139, log entry 27). -/
def noted (o : Host.Outcome State Fault Refusal) : Host.Outcome State Fault Refusal :=
  match o with
  | .next s => .next s.noteError
  | .fault r => .fault r
  | .refused r => .refused r

/-- The instance's turn (R23, R85). -/
def decoderTurn (s : State) : Host.Outcome State Fault Refusal :=
  if s.dec.ctrl = ctrlReserved then .fault .reservedCtrlState
  else if s.dec.ctrl = ctrlBusy then noted (completeStep s)
  else .next s

end Sys2Proof.Machine
end

