-- ==== Sys2Proof/Machine/HostActions.lean ====
section
/-!
DEFINITION. The steps of a host (R125 to R139), one definition per action. An action outside its enabling condition has no step (R138) and is refused by name.
An action on an instance has that instance in focus; it gives the host and the machine afterwards.
-/

namespace Sys2Proof.Machine

/-- What a host's action on an instance gives: the host and the machine. -/
abbrev OpOutcome := Host.Outcome (HostAgent × State) Fault Refusal

/-- A change of the machine, with the host after it. -/
def withHost (h : HostAgent) (o : Host.Outcome State Fault Refusal) : OpOutcome :=
  match o with
  | .next s => .next (h, s)
  | .fault r => .fault r
  | .refused r => .refused r

/-- The host goes on to its next line. -/
def HostAgent.nextLine (h : HostAgent) : HostAgent :=
  { h with line := h.line + 1, awaiting := false }

/-- The host goes to a line (R79). -/
def HostAgent.goto (h : HostAgent) (line : Nat) : HostAgent :=
  { h with line := line, awaiting := false }

/-- `ABORT` (R134): the host stops decoding the stream. The run has failed if a structural error came before (R139, log entry 27). -/
def HostAgent.abort (h : HostAgent) : HostAgent :=
  { h with run := .aborted h.structural }

/-- `HALT` (R139): the end of the program. -/
def HostAgent.halt (h : HostAgent) : HostAgent :=
  { h with run := .halted }

/-- A new stream: its cursor is 0 (R163 (3)), and no error of it is known (log entries 14, 27). -/
def HostAgent.start (h : HostAgent) : HostAgent :=
  { h with cur := 0, structural := false }.nextLine

/-- The instance is one that the host has used (R139). -/
def HostAgent.uses (h : HostAgent) (k : Nat) : HostAgent :=
  if k ∈ h.used then h else { h with used := h.used ++ [k] }

/-- `BUF := bs` (R126). A live window that lies beyond the new BUF_LEN is neither written nor dropped, so it does not stand in the way (DESIGN CHOICE, log
entry 6). -/
def hostWrite (bs : List Byte) (h : HostAgent) (s : State) : OpOutcome :=
  withHost h.nextLine (s.changeBuffer (s.onLoan 0 bs.length) (Memory.writeList s.lane.buf 0 bs) bs.length)

/-- `APPEND bs` (R126). -/
def hostAppend (bs : List Byte) (h : HostAgent) (s : State) : OpOutcome :=
  withHost h.nextLine
    (s.changeBuffer (s.onLoan s.dec.bufLen (s.dec.bufLen + bs.length)) (Memory.writeList s.lane.buf s.dec.bufLen bs)
      (s.dec.bufLen + bs.length))

/-- The buffer's storage after a drop: `BUF[k .. BUF_LEN)` stands at index 0 (R136). -/
def Lane.dropped (l : Lane) (k : Nat) : Memory :=
  Memory.writeList l.buf 0 (Memory.slice l.buf k (l.bufLen - k))

/-- The host after a drop: the cursor is re-based (R136). -/
def HostAgent.rebased (h : HostAgent) (k : Nat) : HostAgent :=
  { h with cur := h.cur - k }.nextLine

/-- A drop of `k` bytes that the buffer holds (R136). The indices it discards or stores to may not be on loan (R131). -/
def dropHeld (k : Nat) (h : HostAgent) (s : State) : OpOutcome :=
  withHost (h.rebased k)
    (s.changeBuffer (decide (k ≠ 0) && (s.onLoan 0 k || s.onLoan 0 (s.dec.bufLen - k))) (s.lane.dropped k) (s.dec.bufLen - k))

/-- The contents of the buffer where the spec states none: a free value, within the limits that the spec sets. They are within the capacity (R46), and the
bytes of a live window are what they were, since the host does not write them (R131; log entry 23). -/
def State.freeBuffer (s : State) : List Byte :=
  ((Config.freeBytes s.draws).take s.capacity).mapIdx (fun a b => if s.onLoan a (a + 1) = true then Memory.read s.lane.buf a else b)

/-- A drop of more bytes than the buffer holds. The cursor is re-based; what the buffer holds, and so BUF_LEN, the spec does not state: a free value (DESIGN
CHOICE, log entry 23). The indices it discards may not be on loan (R131, R138 (c)). -/
def dropBeyond (k : Nat) (h : HostAgent) (s : State) : OpOutcome :=
  withHost (h.rebased k)
    ({ s with draws := s.draws + 1 }.changeBuffer (s.onLoan 0 k) (Memory.writeList s.lane.buf 0 s.freeBuffer) s.freeBuffer.length)

/-- `DROP k` (R136): enabled while no instance that is given the buffer is BUSY, for any `k ≤ cur` (R125). -/
def hostDrop (k : Nat) (h : HostAgent) (s : State) : OpOutcome :=
  if s.sharedBusy = true then .refused .bufferChangeWhileBusy
  else if h.cur < k then .refused .dropNotConsumed
  else if k ≤ s.dec.bufLen then dropHeld k h s
  else dropBeyond k h s

/-- The request of R127: Accept(o), enabled in IDLE and DONE, for an offset of ADDR_WIDTH bits (R84). The host whose request it is, is kept. -/
def Decoder.request (d : Decoder) (no o : Nat) : Host.Outcome Decoder Fault Refusal :=
  if d.ctrl = ctrlBusy then .refused .requestWhileBusy
  else if 2 ^ d.params.addrWidth ≤ o then .refused .offsetTooWide
  else .next { d.accept o with requester := some no }

/-- The row `request` of R125: the request, and the next line at once, so that the host can act on other instances before it waits (R128). -/
def hostRequest (no : Nat) (o : OffsetArg) (h : HostAgent) (s : State) : OpOutcome :=
  withHost h.nextLine (s.onLane (s.dec.request no (o.value h)))

/-- The instance after a host's wait for it has ended: that host's request, if it was one, has been waited for. -/
def Decoder.waitedFor (d : Decoder) (no : Nat) : Decoder :=
  if d.requester = some no then { d with requester := none } else d

/-- `DECODE o` (R79, R127, R128): the request, then the wait on the same line. The wait has no effect while BUSY and ends when RESP_VALID = 1. A wait that a
Reset ended (R161) leaves the line at the DECODE, which requests again (DESIGN CHOICE, log entry 13). Where another host's request has come first, the wait
goes on and ends with that request's response (DESIGN CHOICE, log entry 30). -/
def hostDecode (no : Nat) (o : OffsetArg) (h : HostAgent) (s : State) : OpOutcome :=
  if h.awaiting = true then
    if s.dec.ctrl = ctrlBusy then .next (h, s)
    else if s.dec.respValid = 1#1 then .next (h.nextLine, { s with dec := s.dec.waitedFor no })
    else .next ({ h with awaiting := false }, s)
  else withHost { h with awaiting := true } (s.onLane (s.dec.request no (o.value h)))

/-- The row `wait` of R125: no effect on the instance while BUSY; it ends when RESP_VALID = 1, and a Reset ends the wait for a request too (R161). That
holds also of a Reset that came before the line was reached, whether it ended the host's own request or cleared the response to it (DESIGN CHOICE, log entry
13). The response may be that of another host's request (DESIGN CHOICE, log entry 30). Where nothing is waited for it is not enabled. -/
def hostWait (no : Nat) (h : HostAgent) (s : State) : OpOutcome :=
  if s.dec.ctrl = ctrlBusy then .next ({ h with awaiting := true }, s)
  else if s.dec.respValid = 1#1 ∨ h.awaiting = true ∨ s.dec.requester = some no then
    .next (h.nextLine, { s with dec := s.dec.waitedFor no })
  else .refused .waitNotEnabled

/-- Read a register (R129). Reading has no side effect on the instance. -/
def hostRead (r : Reg) (h : HostAgent) (s : State) : OpOutcome :=
  if r = .respStatus ∧ statusReserved s.dec.resp.status = true then .fault .reservedStatus
  else .next ({ h with seen := some (s.dec.readReg r) }.nextLine, s)

/-- Read the register at a platform address (R24, R129). -/
def hostReadAt (addr : Nat) (h : HostAgent) (s : State) : OpOutcome :=
  match regAtAddress s.dec.params addr with
  | some r => hostRead r h s
  | none => .refused .noSuchRegister

/-- The frame that a held response presents (R39): none unless the status is OK. -/
def Response.frame (r : Response) : Option Frame :=
  if r.status = Status.ok.code then
    (ofOnehot r.dispatch).map (fun t => { type := t, channel := r.channel, payload := r.payload })
  else none

/-- `ADVANCE` (R130): the frame, if any, is handed to the session layer and the cursor moves by RESP_CONSUMED, which is 0 after an error (log entry 11). A
second ADVANCE on the same held response does the same again, since R125 enables it (DESIGN CHOICE, log entry 28). -/
def hostAdvance (h : HostAgent) (s : State) : OpOutcome :=
  if s.dec.respValid ≠ 1#1 then .refused .advanceNotEnabled
  else if statusReserved s.dec.resp.status = true then .fault .reservedStatus
  else .next ({ h with cur := h.cur + s.dec.resp.consumed, delivered := h.delivered ++ s.dec.resp.frame.toList }.nextLine, s)

/-- `IF <status> GOTO <line>` (R129): the branch is on RESP_STATUS, which has a meaning only when RESP_VALID = 1 (R43, log entry 12). -/
def hostIf (st : Status) (line : Nat) (h : HostAgent) (s : State) : OpOutcome :=
  if statusReserved s.dec.resp.status = true then .fault .reservedStatus
  else if s.dec.respValid = 1#1 ∧ s.dec.resp.status = st.code then .next (h.goto line, s)
  else .next (h.nextLine, s)

/-- The row `reset` of R125. -/
def hostReset (h : HostAgent) (s : State) : OpOutcome :=
  .next (h.nextLine, { s with dec := s.dec.resetRegs })

/-- The frames borrowed from the instance are no longer live (R131, log entry 6). -/
def hostRelease (h : HostAgent) (s : State) : OpOutcome :=
  .next (h.nextLine, { s with dec := { s.dec with borrowed := [] } })

/-- One action of the host of number `no` on the instance in focus. -/
def hostAct (no : Nat) (op : Op) (h : HostAgent) (s : State) : OpOutcome :=
  match op with
  | .write bs => hostWrite bs h s
  | .append bs => hostAppend bs h s
  | .drop k => hostDrop k h s
  | .decode o => hostDecode no o h s
  | .request o => hostRequest no o h s
  | .wait => hostWait no h s
  | .read r => hostRead r h s
  | .readAt addr => hostReadAt addr h s
  | .advance => hostAdvance h s
  | .ifStatus st line => hostIf st line h s
  | .reset => hostReset h s
  | .release => hostRelease h s

/-- The machine after an action, with its host put back in its place. -/
def putBack (no : Nat) (o : OpOutcome) : Host.Outcome State Fault Refusal :=
  match o with
  | .next (h, s) => .next (s.setHost no h)
  | .fault r => .fault r
  | .refused r => .refused r

/-- An action on an instance, as a step of the machine. An instance in the reserved controller state is a fault (R22). -/
def hostOn (no k : Nat) (op : Op) (h : HostAgent) (s : State) : Host.Outcome State Fault Refusal :=
  match s.focus k with
  | none => .refused .noSuchInstance
  | some s' =>
    if s'.dec.ctrl = ctrlReserved then .fault .reservedCtrlState
    else putBack no (hostAct no op (h.uses k) s')

/-- A host's current action, where it has one. -/
def hostLine (no : Nat) (a : Action) (h : HostAgent) (s : State) : Host.Outcome State Fault Refusal :=
  match a with
  | .on k op => hostOn no k op h s
  | .goto line => .next (s.setHost no (h.goto line))
  | .abort => .next (s.setHost no h.abort)
  | .halt => .next (s.setHost no h.halt)
  | .start => .next (s.setHost no h.start)

/-- A host's turn: its current action, if it still runs and its program has one; else it takes no step (log entry 16). -/
def hostTurn (no : Nat) (s : State) : Host.Outcome State Fault Refusal :=
  match s.hosts[no]? with
  | none => .refused .noSuchHost
  | some h =>
    if h.run = .running then
      match h.action with
      | some a => hostLine no a h s
      | none => .next s
    else .next s

end Sys2Proof.Machine
end

