-- ==== Sys2Proof/Machine/Step.lean ====
section
/-!
DEFINITION. One step of the machine: the agent whose turn it is takes its step (R20, R23). Reset is taken in every controller state (R160).
-/

namespace Sys2Proof.Machine

/-- A step of one instance: it is brought into focus. -/
def onInstance (s : State) (k : Nat) (f : State → Host.Outcome State Fault Refusal) : Host.Outcome State Fault Refusal :=
  match s.focus k with
  | none => .refused .noSuchInstance
  | some s' => f s'

/-- A Reset event of the instance in focus (R160). -/
def resetTurn (s : State) : Host.Outcome State Fault Refusal :=
  .next { s with dec := s.dec.resetRegs }

/-- One step: Complete, a host action or a Reset (R23, R125). -/
def step (s : State) : Host.Outcome State Fault Refusal :=
  match s.nextTurn with
  | .decoder k => onInstance s.usedTurn k decoderTurn
  | .reset k => onInstance s.usedTurn k resetTurn
  | .host no => hostTurn no s.usedTurn

/-- An instance once a host has stored `bs`, followed by zeros, at the request offset and has requested a DECODE there: what a program of one frame is on
this hardware (log entry 17). -/
def Decoder.withFrame (d : Decoder) (bs : List Byte) : Decoder :=
  { d with bufLen := d.reqOffset + max bs.length (frameLength (be32 (bs.getD 3 0) (bs.getD 4 0) (bs.getD 5 0) (bs.getD 6 0))) }.accept
    d.reqOffset

/-- The storage of that instance's buffer. -/
def Lane.withFrame (l : Lane) (bs : List Byte) : Memory :=
  Memory.writeList (Memory.below l.buf l.reqOffset) l.reqOffset bs

/-- The state whose very next step fetches and runs the instruction of a table word (the fixed name of the host's question): the focused instance is BUSY
with the word at its request offset, and the turn is the instance's. -/
def State.withFetchWord (s : State) (nbits w : Nat) : State :=
  { s with dec := s.dec.withFrame (tableBytes nbits w),
           buffers := s.buffers.set s.dec.bufId (s.lane.withFrame (tableBytes nbits w)),
           turns := .decoder s.focused :: s.turns }

end Sys2Proof.Machine
end

