-- ==== Sys2Proof/Machine/DecodeFn.lean ====
section
/-!
DEFINITION. `DecodeFn` of R86 as the spec writes it: one function of the buffer's bytes, its length, the offset and FRAME_MAX. The machine does the same by
fetching a header, decoding it and running its instruction; that the two agree is a statement.
-/

namespace Sys2Proof.Machine

/-- `MemRead(i, 1)` of a byte list, used below its length. -/
def byteAt (buf : List Byte) (i : Nat) : Byte := buf.getD i 0

/-- `DecodeFn(BUF, n, o, FRAME_MAX)` of R86, with `n = buf.length`. -/
def decodeFn (buf : List Byte) (o : Nat) (frameMax : Length) : Response :=
  if buf.length < o then Response.error .offsetOutOfRange 0x00 0
  else if buf.length - o < 7 then Response.error .incomplete 0x00 7
  else
    let t := byteAt buf o
    let ch := be16 (byteAt buf (o + 1)) (byteAt buf (o + 2))
    let len := be32 (byteAt buf (o + 3)) (byteAt buf (o + 4)) (byteAt buf (o + 5)) (byteAt buf (o + 6))
    match kind t with
    | none => Response.error .unknownType t 0
    | some ft =>
      if frameMax.toNat < len.toNat then Response.error .frameTooLarge 0x00 0
      else if buf.length - o - 7 < len.toNat + 1 then Response.error .incomplete 0x00 (BitVec.ofNat 33 (7 + len.toNat + 1))
      else
        let e := byteAt buf (o + 7 + len.toNat)
        if e = 0xCE#8 then Response.success o ft ch len ((buf.drop (o + 7)).take len.toNat)
        else Response.error .invalidEnd e 0

end Sys2Proof.Machine
end

