-- ==== Sys2Proof/Machine/EncodeRef.lean ====
section
/-!
DEFINITION. The reference encoder of R115 to R119 and the frame notation of R78: functions of the specification's test layer, no step of any agent.
-/

namespace Sys2Proof.Machine

/-- The bytes of a frame with this tag, channel, length field, payload and end byte, in the order of R63 and R64. -/
def frameBytes (tag : Byte) (ch : Channel) (len : Length) (payload : List Byte) (e : Byte) : List Byte :=
  [tag] ++ bytes16 ch ++ bytes32 len ++ payload ++ [e]

/-- `EncodeRef(tag, channel, payload)` of R117 and R118; none is the error InvalidFrame. -/
def encodeRef (tag : Byte) (ch : Channel) (payload : List Byte) : Option (List Byte) :=
  if (kind tag).isSome ∧ payload.length ≤ 2 ^ 32 - 1 then
    some (frameBytes tag ch (BitVec.ofNat 32 payload.length) payload frameEnd)
  else none

/-- `FRAME(type, channel, payload)` of R78. -/
def frameNotation (t : FrameType) (ch : Channel) (payload : List Byte) : List Byte :=
  frameBytes t.tag ch (BitVec.ofNat 32 payload.length) payload frameEnd

/-- `FRAME_END(byte)` of R78: the last byte is replaced. -/
def frameEndReplaced (bs : List Byte) (e : Byte) : List Byte :=
  bs.dropLast ++ [e]

end Sys2Proof.Machine
end

