-- ==== Sys2Proof/Safety.lean ====
section
/-!
DEFINITION. What a legal state is, and the terms in which claims speak of a DECODE and of the end of a run.
-/

namespace Sys2Proof.Machine

/-- A response that presents no frame: every frame field is 0 (R113, R142). -/
def Response.NoFrame (r : Response) : Prop :=
  r.type = 0x00 ∧ r.dispatch = 0b0000 ∧ r.channel = 0 ∧ r.length = 0 ∧ r.payloadStart = 0 ∧ r.consumed = 0 ∧ r.payload = []

/-- A response that presents a frame, given at request offset `o` (R30 to R38, R77, R100). -/
def Response.PresentsAt (o : Nat) (r : Response) : Prop :=
  r.status = Status.ok.code ∧ (∃ t : FrameType, r.type = t.tag ∧ r.dispatch = t.onehot) ∧ r.payload.length = r.length.toNat ∧
    r.payloadStart = o + 7 ∧ r.consumed = 7 + r.length.toNat + 1 ∧ r.errByte = 0x00 ∧ r.need = 0

/-- An error response: no frame, one of the five error codes, and the diagnostic of that code (R36, R37, R142 to R147). -/
def Response.Reports (r : Response) : Prop :=
  r.NoFrame ∧
    ((r.status = Status.incomplete.code ∧ r.errByte = 0x00 ∧
        (r.need.toNat = 7 ∨ 8 ≤ r.need.toNat ∧ r.need.toNat ≤ 4294967303)) ∨
      (r.status = Status.unknownType.code ∧ kind r.errByte = none ∧ r.need = 0) ∨
      (r.status = Status.invalidEnd.code ∧ r.errByte ≠ 0xCE ∧ r.need = 0) ∨
      (r.status = Status.frameTooLarge.code ∧ r.errByte = 0x00 ∧ r.need = 0) ∨
      (r.status = Status.offsetOutOfRange.code ∧ r.errByte = 0x00 ∧ r.need = 0))

/-- A legal instance: what holds of its registers. -/
structure Decoder.Inv (d : Decoder) : Prop where
  /-- CTRL_STATE 0b11 is never entered (R22). -/
  ctrl_legal : d.ctrl ≠ ctrlReserved
  /-- RESP_VALID is 1 exactly when CTRL_STATE = DONE (R28). -/
  valid_iff_done : d.respValid = 1#1 ↔ d.ctrl = ctrlDone
  /-- While RESP_VALID = 0 the response registers hold their reset values (R43). -/
  zero_unless_valid : d.respValid = 0#1 → d.resp = Response.zero
  /-- A held response presents a frame or reports an error (R39, R142). -/
  response_shape : d.respValid = 1#1 → d.resp.PresentsAt d.reqOffset ∨ d.resp.Reports
  /-- BUF_LEN is at most BUF_CAPACITY (R46). -/
  len_fits : d.bufLen ≤ d.params.bufCapacity
  /-- The registers of ADDR_WIDTH bits hold numbers of ADDR_WIDTH bits (R24, R34, R35). -/
  offset_fits : d.reqOffset < 2 ^ d.params.addrWidth
  start_fits : d.resp.payloadStart < 2 ^ d.params.addrWidth
  consumed_fits : d.resp.consumed < 2 ^ d.params.addrWidth

/-- A legal machine. -/
structure State.Inv (s : State) : Prop where
  /-- Every instance is legal. -/
  decs_legal : ∀ d ∈ s.decs, d.Inv
  /-- BUF_LEN is within the BUF_CAPACITY of every instance that is given the same buffer (R46, log entry 9). -/
  len_fits : ∀ d ∈ s.decs, ∀ d' ∈ s.decs, d'.bufId = d.bufId → d.bufLen ≤ d'.params.bufCapacity
  /-- Every stored buffer is in canonical form. -/
  buffers_wf : ∀ m ∈ s.buffers, Memory.wf m = true
  /-- Every instance is given a buffer that the machine has. -/
  buffer_exists : ∀ d ∈ s.decs, d.bufId < s.buffers.length
  /-- Nothing is stored beyond the BUF_CAPACITY of an instance that is given the buffer. -/
  buffer_fits : ∀ d ∈ s.decs, ∀ c ∈ s.buffer d.bufId, c.1 < d.params.bufCapacity

/-- The header instruction of a known frame type (R69). -/
def FrameType.instr (t : FrameType) (ch : Channel) (len : Length) : Instr :=
  match t with
  | .method => .method ch len
  | .header => .header ch len
  | .body => .body ch len
  | .heartbeat => .heartbeat ch len

/-- The machine after the focused instance has completed with a response (R85). -/
def State.completed (s : State) (r : Response) : State :=
  { s with dec := s.dec.complete r }

/-- The machine of one instance and no host, given the lane's buffer, whose instance is to move. -/
def Lane.alone (l : Lane) : State :=
  { left := [], dec := { l.toDecoder with bufId := 0 }, right := [], buffers := [l.buf], hosts := [], turns := [.decoder 0], draws := 0 }

/-- The response that the machine's own Complete step writes for a lane (R85); none where it takes no such step. -/
def completeResponse (l : Lane) : Option Response :=
  if l.ctrl = ctrlBusy then
    match step l.alone with
    | .next s => some s.dec.resp
    | .fault _ => none
    | .refused _ => none
  else none

/-- The next step is an instance's own, and it holds a request: `s'` is the machine with that instance in focus and the turn used up. -/
def State.decoderReady (s s' : State) : Prop :=
  s.nextTurn = .decoder s'.focused ∧ s.usedTurn.focus s'.focused = some s' ∧ s'.dec.ctrl = ctrlBusy

/-- The next step is a Reset of an instance: `s'` is the machine with that instance in focus and the turn used up. -/
def State.resetReady (s s' : State) : Prop :=
  s.nextTurn = .reset s'.focused ∧ s.usedTurn.focus s'.focused = some s'

/-- The next step is host `no`'s; the host is `h`, its program runs and stands at action `a`. -/
def State.hostAt (s : State) (no : Nat) (h : HostAgent) (a : Action) : Prop :=
  s.nextTurn = .host no ∧ s.hosts[no]? = some h ∧ h.run = .running ∧ h.action = some a

/-- The next step is host `no`'s action `op` on an instance: `s'` is the machine with that instance in focus and the turn used up. -/
def State.hostReady (s s' : State) (no : Nat) (h : HostAgent) (op : Op) : Prop :=
  s.hostAt no h (.on s'.focused op) ∧ s.usedTurn.focus s'.focused = some s' ∧ s'.dec.ctrl ≠ ctrlReserved

/-- The actions that change a buffer and BUF_LEN (R126, R136). -/
def Op.changesBuffer : Op → Bool
  | .write _ => true
  | .append _ => true
  | .drop _ => true
  | .decode _ => false
  | .request _ => false
  | .wait => false
  | .read _ => false
  | .readAt _ => false
  | .advance => false
  | .ifStatus _ _ => false
  | .reset => false
  | .release => false

/-- A host has stopped or stands at no line. -/
def HostAgent.idle (h : HostAgent) : Prop :=
  h.run ≠ .running ∨ h.action = none

/-- The parameters, the registers and the buffer's number are the same in two instances. -/
def Decoder.sameRegs (d d' : Decoder) : Prop :=
  d'.params = d.params ∧ d'.ctrl = d.ctrl ∧ d'.reqOffset = d.reqOffset ∧ d'.respValid = d.respValid ∧ d'.resp = d.resp ∧
    d'.bufLen = d.bufLen ∧ d'.bufId = d.bufId

/-- Two machines have the same other instances, buffers, turns and draws, and the same registers and loans in focus. -/
def State.sameInstances (s t : State) : Prop :=
  s.dec.sameRegs t.dec ∧ t.dec.borrowed = s.dec.borrowed ∧ t.left = s.left ∧ t.right = s.right ∧ t.buffers = s.buffers ∧
    t.turns = s.turns ∧ t.draws = s.draws

/-- `t` is the machine after a change of the focused instance's buffer that leaves `n` bytes: BUF_LEN of every instance that is given the buffer is `n`, and
no other register, no other buffer and no turn has changed (R44, log entry 9). -/
def State.onlyBufferChanges (s t : State) (n : Nat) : Prop :=
  t.decs = s.decs.map (fun d => if d.bufId = s.dec.bufId then { d with bufLen := n } else d) ∧ t.focused = s.focused ∧
    t.dec = { s.dec with bufLen := n } ∧ (∀ b : Nat, b ≠ s.dec.bufId → t.buffer b = s.buffer b) ∧ t.turns = s.turns

/-- The instances that are given buffer `b`, each at its place among all. -/
def State.group (s : State) (b : Nat) : List (Option Decoder) :=
  s.decs.map (fun d => if d.bufId = b then some d else none)

/-- The run of host `h` is over (R139): it has executed HALT or ABORT, and every instance it has used is IDLE or DONE.
The CTRL_STATE read is the present one, so the answer is false again while another host's request makes such an instance BUSY (DESIGN CHOICE, log entry 27). -/
def State.runOver (s : State) (h : HostAgent) : Bool :=
  decide (h.run ≠ .running) &&
    h.used.all (fun k => s.decs[k]?.all (fun d => decide (d.ctrl = ctrlIdle) || decide (d.ctrl = ctrlDone)))

/-- A failed run (R139): over, at present as in `State.runOver`, and ended by ABORT after a structural error (log entry 27). -/
def State.runFailed (s : State) (h : HostAgent) : Bool :=
  s.runOver h && decide (h.run = .aborted true)

end Sys2Proof.Machine
end

