-- ==== Sys2Proof/Certificates/Slice0/Obligations.lean ====
section
/-!
DEFINITION. The statements for the provers. OBLIGATIONS.json lists them with the rules they formalise.
-/

open Sys2Proof Sys2Proof.Machine

/-! ## Encoding -/

/-- Decoding the encoding of a well-formed header instruction, with any bytes after it, gives the instruction and those bytes. -/
def Obligations.DecodeOfEncodeGivesInstruction : Prop :=
  ∀ (i : Instr) (rest : List Byte), i.wellFormed = true → decode (encode i ++ rest) = .ok (i, rest)

/-- Whatever the decoder accepts is well formed and is the encoding of what it answers. -/
def Obligations.EncodeOfDecodeGivesBytes : Prop :=
  ∀ (bs rest : List Byte) (i : Instr), decode bs = .ok (i, rest) → i.wellFormed = true ∧ encode i ++ rest = bs

/-- The decoder is total: 7 bytes give an instruction and the bytes after them, fewer are refused by name. -/
def Obligations.DecodeNeedsSevenBytes : Prop :=
  ∀ bs : List Byte,
    (bs.length < 7 → decode bs = .error .shortHeader) ∧ (7 ≤ bs.length → ∃ i : Instr, decode bs = .ok (i, bs.drop 7))

/-- Each of the 256 tags is matched by exactly one row of the opcode table. -/
def Obligations.EveryTagMatchesExactlyOneRow : Prop :=
  ∀ t : Byte, (opcodeRows.filter (fun row => tagMatches row t)).length = 1

/-- Headers written out byte by byte from R64 and the opcode table decode to what they stand for. -/
def Obligations.WrittenOutHeadersDecode : Prop :=
  decode [0x01, 0x00, 0x01, 0x00, 0x00, 0x00, 0x04] = .ok (.method 1 4, []) ∧
    decode [0x02, 0xFF, 0xFF, 0x00, 0x00, 0x00, 0x01] = .ok (.header 65535 1, []) ∧
    decode [0x03, 0x12, 0x34, 0x00, 0x00, 0x00, 0x02] = .ok (.body 4660 2, []) ∧
    decode [0x08, 0x00, 0x00, 0x00, 0x00, 0x00, 0x00] = .ok (.heartbeat 0 0, []) ∧
    decode [0x07, 0x00, 0x00, 0x00, 0x00, 0x01, 0x00] = .ok (.unknown04 0x07 0 256, []) ∧
    decode [0xCE, 0x08, 0x00, 0x00, 0x00, 0x00, 0x00] = .ok (.unknown80 0xCE 2048 0, [])

/-- The header fields of R90, with the big-endian values of R64. -/
def Obligations.HeaderFieldsAreBigEndian : Prop :=
  ∀ l : Lane, l.reqOffset + 7 ≤ l.bufLen →
    ∃ i : Instr, l.fetch = .instr i ∧ i.tag = Memory.read l.buf l.reqOffset ∧
      i.channel.toNat = 256 * (Memory.read l.buf (l.reqOffset + 1)).toNat + (Memory.read l.buf (l.reqOffset + 2)).toNat ∧
      i.length.toNat =
        16777216 * (Memory.read l.buf (l.reqOffset + 3)).toNat + 65536 * (Memory.read l.buf (l.reqOffset + 4)).toNat +
          256 * (Memory.read l.buf (l.reqOffset + 5)).toNat + (Memory.read l.buf (l.reqOffset + 6)).toNat

/-- A table word of one byte, placed by `withFetchWord`, is the instruction the very next step runs. -/
def Obligations.TableWordIsFetchedAndRun : Prop :=
  ∀ (s : State) (w : Nat), s.dec.bufId < s.buffers.length → Memory.wf (s.buffer s.dec.bufId) = true →
    ∃ i : Instr, decodeTableWord 8 w = some i ∧
      step (s.withFetchWord 8 w) = noted (exec i { s.withFetchWord 8 w with turns := s.turns })

/-! ## The turn and the step -/

/-- Bringing an instance into focus changes nothing but the focus; a turn of an instance or a host that the machine does not have is refused; and the turn
of an agent that has no step passes: nothing but the turn is used up. -/
def Obligations.TurnBringsInstanceIntoFocus : Prop :=
  ∀ s : State,
    (∀ (k : Nat) (d : Decoder), s.decs[k]? = some d →
      ∃ s' : State, s.focus k = some s' ∧ s'.dec = d ∧ s'.focused = k ∧ s'.decs = s.decs ∧ s'.buffers = s.buffers ∧ s'.hosts = s.hosts ∧
        s'.turns = s.turns ∧ s'.draws = s.draws) ∧
    (∀ k : Nat, s.decs[k]? = none →
      (s.nextTurn = .decoder k ∨ s.nextTurn = .reset k ∨ ∃ (no : Nat) (h : HostAgent) (op : Op), s.hostAt no h (.on k op)) →
      step s = .refused .noSuchInstance) ∧
    (∀ no : Nat, s.hosts[no]? = none → s.nextTurn = .host no → step s = .refused .noSuchHost) ∧
    (∀ (k : Nat) (d : Decoder), s.decs[k]? = some d → d.ctrl = ctrlIdle ∨ d.ctrl = ctrlDone → s.nextTurn = .decoder k →
      ∃ t : State, step s = .next t ∧ t.decs = s.decs ∧ t.buffers = s.buffers ∧ t.hosts = s.hosts ∧ t.turns = s.turns.tail ∧
        t.draws = s.draws) ∧
    (∀ (no : Nat) (h : HostAgent), s.hosts[no]? = some h → h.idle → s.nextTurn = .host no → step s = .next s.usedTurn)

/-- A Complete step whose header is available runs the decoded instruction. What the step adds is the mark of a host whose request a structural error
answers (`noted`). -/
def Obligations.StepRunsDecodedInstruction : Prop :=
  ∀ (s s' : State) (i : Instr), s.decoderReady s' → s'.dec.reqOffset + 7 ≤ s'.dec.bufLen →
    decode (Memory.slice s'.lane.buf s'.dec.reqOffset 7) = .ok (i, []) → step s = noted (exec i s')

/-- Check 0: an offset beyond the buffer. An offset equal to BUF_LEN is in range and means no available byte. -/
def Obligations.OffsetBeyondBufferIsReported : Prop :=
  ∀ s s' : State, s.decoderReady s' →
    (s'.dec.bufLen < s'.dec.reqOffset → step s = .next (s'.completed (Response.error .offsetOutOfRange 0x00 0))) ∧
    (s'.dec.reqOffset = s'.dec.bufLen → step s = .next (s'.completed (Response.error .incomplete 0x00 7)))

/-- Check 1: fewer than 7 available bytes, whatever they are. -/
def Obligations.ShortHeaderIsIncomplete : Prop :=
  ∀ s s' : State, s.decoderReady s' → s'.dec.reqOffset ≤ s'.dec.bufLen → s'.dec.bufLen - s'.dec.reqOffset < 7 →
    step s = .next (s'.completed (Response.error .incomplete 0x00 7))

/-- The error response, register by register; nothing else changes. -/
def Obligations.ErrorResponseRegisters : Prop :=
  ∀ (s : State) (st : Status) (x : Byte) (k : BitVec 33), s.dec.ctrl = ctrlBusy → st ≠ .ok →
    ∃ t : State, s.onLane (s.lane.raise st x k) = .next t ∧ t = s.completed (Response.error st x k) ∧
      t.dec.resp.status = st.code ∧ t.dec.resp.type = 0x00 ∧ t.dec.resp.dispatch = 0b0000 ∧ t.dec.resp.channel = 0 ∧
      t.dec.resp.length = 0 ∧ t.dec.resp.payloadStart = 0 ∧ t.dec.resp.consumed = 0 ∧ t.dec.resp.errByte = x ∧
      t.dec.resp.need = k ∧ t.dec.resp.payload = [] ∧ t.dec.respValid = 1 ∧ t.dec.ctrl = 0b10 ∧
      t.dec.reqOffset = s.dec.reqOffset ∧ t.dec.params = s.dec.params ∧ t.dec.bufLen = s.dec.bufLen ∧ t.dec.bufId = s.dec.bufId ∧
      t.dec.borrowed = s.dec.borrowed ∧ t.dec.requester = s.dec.requester ∧ t.left = s.left ∧ t.right = s.right ∧
      t.buffers = s.buffers ∧ t.hosts = s.hosts ∧ t.turns = s.turns ∧ t.draws = s.draws

/-- The codes of the spec: RESP_STATUS (R140), `Kind` and `onehot` (R105), and no type for any other tag. -/
def Obligations.StatusAndDispatchCodes : Prop :=
  Status.ok.code = 0 ∧ Status.incomplete.code = 1 ∧ Status.unknownType.code = 2 ∧ Status.invalidEnd.code = 3 ∧
    Status.frameTooLarge.code = 4 ∧ Status.offsetOutOfRange.code = 5 ∧
    kind 0x01 = some .method ∧ kind 0x02 = some .header ∧ kind 0x03 = some .body ∧ kind 0x08 = some .heartbeat ∧
    FrameType.onehot .method = 0b0001 ∧ FrameType.onehot .header = 0b0010 ∧ FrameType.onehot .body = 0b0100 ∧
    FrameType.onehot .heartbeat = 0b1000 ∧
    ∀ t : Byte, t ≠ 0x01 → t ≠ 0x02 → t ≠ 0x03 → t ≠ 0x08 → kind t = none

/-! ## The instructions -/

/-- METHOD, HEADER, BODY and HEARTBEAT complete with the success response: every register of R100. -/
def Obligations.KnownFrameSuccessResponse : Prop :=
  ∀ (ft : FrameType) (ch : Channel) (len : Length) (s : State), s.dec.ctrl = ctrlBusy →
    len.toNat ≤ s.dec.params.frameMax.toNat → s.dec.reqOffset + 7 + len.toNat + 1 ≤ s.dec.bufLen →
    Memory.read (s.buffer s.dec.bufId) (s.dec.reqOffset + 7 + len.toNat) = 0xCE →
    ∃ t : State, exec (ft.instr ch len) s = .next t ∧
      t.dec.resp.status = 0 ∧ t.dec.resp.type = ft.tag ∧ t.dec.resp.dispatch = ft.onehot ∧ t.dec.resp.channel = ch ∧
      t.dec.resp.length = len ∧ t.dec.resp.payloadStart = s.dec.reqOffset + 7 ∧ t.dec.resp.consumed = 7 + len.toNat + 1 ∧
      t.dec.resp.errByte = 0x00 ∧ t.dec.resp.need = 0 ∧
      t.dec.resp.payload = Memory.slice (s.buffer s.dec.bufId) (s.dec.reqOffset + 7) len.toNat ∧
      t.dec.respValid = 1 ∧ t.dec.ctrl = 0b10

/-- Check 3: a known frame whose length exceeds FRAME_MAX. -/
def Obligations.LengthAboveFrameMaxIsTooLarge : Prop :=
  ∀ (ft : FrameType) (ch : Channel) (len : Length) (s : State), s.dec.ctrl = ctrlBusy →
    s.dec.params.frameMax.toNat < len.toNat →
    exec (ft.instr ch len) s = .next (s.completed (Response.error .frameTooLarge 0x00 0))

/-- Check 4: a known frame whose payload or end byte is not all present; the need is exact. -/
def Obligations.ShortPayloadIsIncomplete : Prop :=
  ∀ (ft : FrameType) (ch : Channel) (len : Length) (s : State), s.dec.ctrl = ctrlBusy →
    len.toNat ≤ s.dec.params.frameMax.toNat → s.dec.bufLen - s.dec.reqOffset - 7 < len.toNat + 1 →
    ∃ k : BitVec 33, k.toNat = 7 + len.toNat + 1 ∧
      exec (ft.instr ch len) s = .next (s.completed (Response.error .incomplete 0x00 k))

/-- Check 5: a known frame whose end byte is not 0xCE. -/
def Obligations.WrongEndByteIsInvalidEnd : Prop :=
  ∀ (ft : FrameType) (ch : Channel) (len : Length) (s : State), s.dec.ctrl = ctrlBusy →
    len.toNat ≤ s.dec.params.frameMax.toNat → s.dec.reqOffset + 7 + len.toNat + 1 ≤ s.dec.bufLen →
    Memory.read (s.buffer s.dec.bufId) (s.dec.reqOffset + 7 + len.toNat) ≠ 0xCE →
    exec (ft.instr ch len) s =
      .next (s.completed (Response.error .invalidEnd (Memory.read (s.buffer s.dec.bufId) (s.dec.reqOffset + 7 + len.toNat)) 0))

/-- The nine UNKNOWN rows complete with UNKNOWN_TYPE and the tag, whatever the length field and the buffer are. -/
def Obligations.UnknownRowsReportTag : Prop :=
  ∀ (tag : Byte) (ch : Channel) (len : Length) (s : State), s.dec.ctrl = ctrlBusy →
    exec (.unknown00 ch len) s = .next (s.completed (Response.error .unknownType 0x00 0)) ∧
    exec (.unknown04 tag ch len) s = .next (s.completed (Response.error .unknownType tag 0)) ∧
    exec (.unknown09 ch len) s = .next (s.completed (Response.error .unknownType 0x09 0)) ∧
    exec (.unknown0A tag ch len) s = .next (s.completed (Response.error .unknownType tag 0)) ∧
    exec (.unknown0C tag ch len) s = .next (s.completed (Response.error .unknownType tag 0)) ∧
    exec (.unknown10 tag ch len) s = .next (s.completed (Response.error .unknownType tag 0)) ∧
    exec (.unknown20 tag ch len) s = .next (s.completed (Response.error .unknownType tag 0)) ∧
    exec (.unknown40 tag ch len) s = .next (s.completed (Response.error .unknownType tag 0)) ∧
    exec (.unknown80 tag ch len) s = .next (s.completed (Response.error .unknownType tag 0))

/-- The step of a header with an illegal tag: UNKNOWN_TYPE as soon as 7 bytes are available, whatever L, FRAME_MAX and the rest of the buffer are. -/
def Obligations.IllegalTagIsReportedFromHeader : Prop :=
  ∀ s s' : State, s.decoderReady s' → s'.dec.reqOffset + 7 ≤ s'.dec.bufLen →
    Memory.read s'.lane.buf s'.dec.reqOffset ≠ 0x01 → Memory.read s'.lane.buf s'.dec.reqOffset ≠ 0x02 →
    Memory.read s'.lane.buf s'.dec.reqOffset ≠ 0x03 → Memory.read s'.lane.buf s'.dec.reqOffset ≠ 0x08 →
    ∃ t : State, step s = .next t ∧ t.dec.resp = Response.error .unknownType (Memory.read s'.lane.buf s'.dec.reqOffset) 0 ∧
      t.dec.respValid = 1 ∧ t.dec.ctrl = ctrlDone ∧ t.dec.reqOffset = s'.dec.reqOffset

/-- The frame of all thirteen instructions: besides the response registers, RESP_VALID, CTRL_STATE and the loan of a payload window by a BORROW instance,
nothing changes, and no byte of any buffer. -/
def Obligations.InstructionFrame : Prop :=
  ∀ (i : Instr) (s t : State), exec i s = .next t →
    t.left = s.left ∧ t.right = s.right ∧ t.hosts = s.hosts ∧ t.turns = s.turns ∧ t.draws = s.draws ∧
      t.dec.params = s.dec.params ∧ t.dec.reqOffset = s.dec.reqOffset ∧ t.dec.bufLen = s.dec.bufLen ∧ t.dec.bufId = s.dec.bufId ∧
      t.dec.requester = s.dec.requester ∧ t.buffers.length = s.buffers.length ∧
      (∀ b a : Nat, Memory.read (t.buffer b) a = Memory.read (s.buffer b) a) ∧
      (t.dec.borrowed = s.dec.borrowed ∨
        s.dec.params.payloadMode = .borrow ∧ t.dec.resp.status = 0 ∧
          t.dec.borrowed = { start := s.dec.reqOffset + 7, len := t.dec.resp.length.toNat } :: s.dec.borrowed)

/-- Every instruction completes from every BUSY state, and from no other. -/
def Obligations.EveryInstructionCompletesExactlyWhenBusy : Prop :=
  ∀ (i : Instr) (s : State),
    (s.dec.ctrl = ctrlBusy → ∃ t : State, exec i s = .next t ∧ t.dec.ctrl = ctrlDone ∧ t.dec.respValid = 1) ∧
    (s.dec.ctrl ≠ ctrlBusy → ∀ t : State, exec i s ≠ .next t)

/-- A successful DECODE consumes `8 + L` bytes, at least 8 and at most the available ones, and its payload is the `L` bytes after the header, in order. -/
def Obligations.ConsumedAndPayloadOfSuccess : Prop :=
  ∀ (i : Instr) (s t : State), exec i s = .next t → t.dec.resp.status = Status.ok.code →
    t.dec.resp.consumed = 8 + t.dec.resp.length.toNat ∧ 8 ≤ t.dec.resp.consumed ∧
      t.dec.resp.consumed ≤ s.dec.bufLen - s.dec.reqOffset ∧ t.dec.resp.payload.length = t.dec.resp.length.toNat ∧
      ∀ j : Nat, j < t.dec.resp.length.toNat → t.dec.resp.payload[j]? = some (Memory.read (s.buffer s.dec.bufId) (s.dec.reqOffset + 7 + j))

/-- What a BORROW instance lends stays on loan: any range that meets the payload window does, a COPY instance lends nothing, and no step changes an
instance's loans but such a Complete and the host's RELEASE. -/
def Obligations.BorrowedPayloadIsOnLoan : Prop :=
  (∀ (i : Instr) (s t : State), exec i s = .next t → t.dec.resp.status = Status.ok.code →
    (s.dec.params.payloadMode = .copy → t.dec.borrowed = s.dec.borrowed) ∧
    (s.dec.params.payloadMode = .borrow → ∀ lo hi : Nat, lo < hi → t.dec.resp.length ≠ 0 →
      lo < s.dec.reqOffset + 7 + t.dec.resp.length.toNat → s.dec.reqOffset + 7 < hi → t.onLoan lo hi = true)) ∧
  (∀ (s t : State) (j : Nat) (d d' : Decoder), step s = .next t → s.decs[j]? = some d → t.decs[j]? = some d' →
    d'.borrowed = d.borrowed ∨
      (s.nextTurn = .decoder j ∧ d.params.payloadMode = .borrow ∧ d'.resp.status = Status.ok.code ∧
        d'.borrowed = { start := d'.resp.payloadStart, len := d'.resp.length.toNat } :: d.borrowed) ∨
      ((∃ (no : Nat) (h : HostAgent), s.hostAt no h (.on j .release)) ∧ d'.borrowed = []))

/-! ## DECODE as a whole -/

/-- The machine's Complete step writes the response of `DecodeFn`, sets RESP_VALID and goes to DONE; the other registers, the other instances and the
buffers stay. -/
def Obligations.CompleteStepIsDecodeFn : Prop :=
  ∀ s s' : State, s.decoderReady s' →
    ∃ t : State, step s = .next t ∧ t.dec.resp = decodeFn s'.lane.bytes s'.dec.reqOffset s'.dec.params.frameMax ∧
      t.dec.respValid = 1 ∧ t.dec.ctrl = ctrlDone ∧ t.dec.reqOffset = s'.dec.reqOffset ∧ t.dec.bufLen = s'.dec.bufLen ∧
      t.dec.params = s'.dec.params ∧ t.dec.bufId = s'.dec.bufId ∧ t.left = s'.left ∧ t.right = s'.right ∧ t.buffers = s'.buffers

/-- Two Complete steps with the same four inputs write the same response, whatever else the lanes hold. -/
def Obligations.ResponseDependsOnFourInputs : Prop :=
  ∀ l l' : Lane, l.ctrl = ctrlBusy → l'.ctrl = ctrlBusy → l'.bufLen = l.bufLen → l'.reqOffset = l.reqOffset →
    l'.params.frameMax = l.params.frameMax →
    (∀ a : Nat, a < l.bufLen → Memory.read l'.buf a = Memory.read l.buf a) →
    ∃ r : Response, completeResponse l = some r ∧ completeResponse l' = some r

/-- Only the indices of R51 matter: the header where 7 bytes are available, and the payload and end byte where checks 2 to 4 pass. -/
def Obligations.OnlyFrameBytesMatter : Prop :=
  ∀ (l l' : Lane) (len : Length), l.ctrl = ctrlBusy → l'.ctrl = ctrlBusy → l'.bufLen = l.bufLen → l'.reqOffset = l.reqOffset →
    l'.params.frameMax = l.params.frameMax →
    len = be32 (Memory.read l.buf (l.reqOffset + 3)) (Memory.read l.buf (l.reqOffset + 4)) (Memory.read l.buf (l.reqOffset + 5))
      (Memory.read l.buf (l.reqOffset + 6)) →
    (l.reqOffset + 7 ≤ l.bufLen → ∀ a : Nat, l.reqOffset ≤ a → a < l.reqOffset + 7 →
      Memory.read l'.buf a = Memory.read l.buf a) →
    ((kind (Memory.read l.buf l.reqOffset)).isSome = true → len.toNat ≤ l.params.frameMax.toNat →
      l.reqOffset + 7 + len.toNat + 1 ≤ l.bufLen →
      ∀ a : Nat, l.reqOffset + 7 ≤ a → a ≤ l.reqOffset + 7 + len.toNat → Memory.read l'.buf a = Memory.read l.buf a) →
    completeResponse l' = completeResponse l

/-- Stability under extension, both parts of R102. OFFSET_OUT_OF_RANGE is left out, as R102 (a) leaves it out: R151 says that it repeats on an extended
buffer too, and R86 answers anew (DEDUCED, log entry 29). -/
def Obligations.ResponseIsStableUnderExtension : Prop :=
  ∀ (l l' : Lane) (ext : List Byte) (r r' : Response), l.ctrl = ctrlBusy → l'.ctrl = ctrlBusy → l'.reqOffset = l.reqOffset →
    l'.params.frameMax = l.params.frameMax → l'.bytes = l.bytes ++ ext →
    completeResponse l = some r → completeResponse l' = some r' →
    (r.status ≠ Status.incomplete.code → r.status ≠ Status.offsetOutOfRange.code → r' = r) ∧
    (r.status = Status.incomplete.code →
      (l'.bufLen - l'.reqOffset < r.need.toNat → r'.status = Status.incomplete.code) ∧
      (r'.status = Status.incomplete.code → r.need.toNat ≤ r'.need.toNat))

/-- The round trip: the encoder's bytes, anywhere in a buffer, decode to the frame encoded, or to FRAME_TOO_LARGE above FRAME_MAX. -/
def Obligations.DecodeOfEncodeRefGivesFrame : Prop :=
  ∀ (l : Lane) (tag : Byte) (ch : Channel) (payload b pre post : List Byte), l.ctrl = ctrlBusy →
    encodeRef tag ch payload = some b → l.bytes = pre ++ b ++ post → l.reqOffset = pre.length →
    (payload.length ≤ l.params.frameMax.toNat →
      ∃ r : Response, completeResponse l = some r ∧ r.status = Status.ok.code ∧ r.type = tag ∧ r.channel = ch ∧
        r.length.toNat = payload.length ∧ r.payload = payload ∧ r.consumed = b.length ∧ r.payloadStart = pre.length + 7) ∧
    (l.params.frameMax.toNat < payload.length → completeResponse l = some (Response.error .frameTooLarge 0x00 0))

/-- The converse round trip: a successful DECODE accepts exactly the bytes the encoder gives for the frame it presents. -/
def Obligations.DecodedFrameReencodesToItsBytes : Prop :=
  ∀ (l : Lane) (r : Response), completeResponse l = some r → r.status = Status.ok.code →
    encodeRef r.type r.channel r.payload = some ((l.bytes.drop l.reqOffset).take r.consumed)

/-- The properties of R103 and R123: a strict prefix is INCOMPLETE, a changed end byte INVALID_END, a changed tag UNKNOWN_TYPE. -/
def Obligations.DamagedFrameResponses : Prop :=
  ∀ (l : Lane) (tag : Byte) (ch : Channel) (payload b pre post : List Byte), l.ctrl = ctrlBusy →
    encodeRef tag ch payload = some b → payload.length ≤ l.params.frameMax.toNat → l.reqOffset = pre.length →
    (∀ n : Nat, n < b.length → l.bytes = pre ++ b.take n →
      ∃ r : Response, completeResponse l = some r ∧ r.status = Status.incomplete.code ∧
        r.need.toNat = if n < 7 then 7 else b.length) ∧
    (∀ x : Byte, x ≠ 0xCE → l.bytes = pre ++ frameEndReplaced b x ++ post →
      completeResponse l = some (Response.error .invalidEnd x 0)) ∧
    (∀ y : Byte, kind y = none → l.bytes = pre ++ y :: b.tail ++ post →
      completeResponse l = some (Response.error .unknownType y 0))

/-- EncodeRef fails exactly on an unrecognised tag or an oversized payload. -/
def Obligations.EncodeRefFailsExactlyOnInvalidFrame : Prop :=
  ∀ (tag : Byte) (ch : Channel) (payload : List Byte),
    encodeRef tag ch payload = none ↔
      (tag ≠ 0x01 ∧ tag ≠ 0x02 ∧ tag ≠ 0x03 ∧ tag ≠ 0x08) ∨ 2 ^ 32 - 1 < payload.length

/-- What EncodeRef gives: the bytes of R118, with the length in big-endian order, `7 + payload.len + 1` of them. -/
def Obligations.EncodeRefBytes : Prop :=
  ∀ (tag : Byte) (ch : Channel) (payload b : List Byte), encodeRef tag ch payload = some b →
    b.length = 7 + payload.length + 1 ∧
      ∃ (c0 c1 l0 l1 l2 l3 : Byte), b = [tag, c0, c1, l0, l1, l2, l3] ++ payload ++ [0xCE] ∧
        ch.toNat = 256 * c0.toNat + c1.toNat ∧
        payload.length = 16777216 * l0.toNat + 65536 * l1.toNat + 256 * l2.toNat + l3.toNat

/-- Position independence: dropping `k` bytes in front changes only RESP_PAYLOAD_START, which is `k` less. -/
def Obligations.DecodeIsPositionIndependent : Prop :=
  ∀ (l l' : Lane) (k : Nat) (r : Response), l.ctrl = ctrlBusy → l'.ctrl = ctrlBusy → k ≤ l.bufLen → l'.bytes = l.bytes.drop k →
    l.reqOffset = l'.reqOffset + k → l'.params.frameMax = l.params.frameMax → completeResponse l = some r →
    completeResponse l' = some { r with payloadStart := r.payloadStart - k }

/-- With FRAME_MAX at most BUF_CAPACITY − 8, an INCOMPLETE never asks for more than the capacity. -/
def Obligations.IncompleteNeedFitsCapacity : Prop :=
  ∀ (l : Lane) (r : Response), l.params.frameMax.toNat + 8 ≤ l.params.bufCapacity → completeResponse l = some r →
    r.status = Status.incomplete.code → r.need.toNat ≤ l.params.bufCapacity

/-- The payload store of R62 is large enough for every payload. -/
def Obligations.PayloadFitsItsStore : Prop :=
  ∀ (l : Lane) (r : Response), l.bufLen ≤ l.params.bufCapacity → completeResponse l = some r →
    r.payload.length ≤ min l.params.frameMax.toNat (max 0 (l.params.bufCapacity - 8))

/-! ## The controller, Reset and the registers -/

/-- The controller's transitions are those of R23: every change of CTRL_STATE is an Accept by a host from IDLE or DONE, a Complete from BUSY or a Reset; each
of these makes its change; a request while BUSY has no step. The instance's own turn in IDLE or DONE and the turn of a host that has stopped, for which R23
has no step, change no instance: that such a turn passes, and answers a next state, is the model's choice (DESIGN CHOICE, log entry 16). -/
def Obligations.ControllerTransitions : Prop :=
  (∀ (s t : State) (j : Nat) (d d' : Decoder), step s = .next t → s.decs[j]? = some d → t.decs[j]? = some d' → d'.ctrl ≠ d.ctrl →
    ((d.ctrl = ctrlIdle ∨ d.ctrl = ctrlDone) ∧ d'.ctrl = ctrlBusy ∧
        ∃ (no : Nat) (h : HostAgent) (o : OffsetArg), s.hostAt no h (.on j (.decode o)) ∨ s.hostAt no h (.on j (.request o))) ∨
      (s.nextTurn = .decoder j ∧ d.ctrl = ctrlBusy ∧ d'.ctrl = ctrlDone) ∨
      ((s.nextTurn = .reset j ∨ ∃ (no : Nat) (h : HostAgent), s.hostAt no h (.on j .reset)) ∧ d'.ctrl = ctrlIdle)) ∧
  (∀ (s s' : State) (no : Nat) (h : HostAgent) (o : OffsetArg), s.hostReady s' no h (.request o) →
    o.value h < 2 ^ s'.dec.params.addrWidth →
    ((s'.dec.ctrl = ctrlIdle ∨ s'.dec.ctrl = ctrlDone) → ∃ t : State, step s = .next t ∧ t.dec.ctrl = ctrlBusy) ∧
    (s'.dec.ctrl = ctrlBusy → ∀ t : State, step s ≠ .next t)) ∧
  (∀ s s' : State, s.decoderReady s' → ∃ t : State, step s = .next t ∧ t.dec.ctrl = ctrlDone) ∧
  (∀ s s' : State, s.resetReady s' → ∃ t : State, step s = .next t ∧ t.dec.ctrl = ctrlIdle) ∧
  (∀ (s t : State) (k : Nat) (d : Decoder), s.decs[k]? = some d → d.ctrl = ctrlIdle ∨ d.ctrl = ctrlDone → s.nextTurn = .decoder k →
    step s = .next t → t.decs = s.decs) ∧
  (∀ (s t : State) (no : Nat) (h : HostAgent), s.hosts[no]? = some h → h.idle → s.nextTurn = .host no → step s = .next t →
    t.decs = s.decs)

/-- Which steps write the registers of an instance. REQ_OFFSET: only a host's Accept, with the request's offset, and a Reset, with 0. The response registers
and RESP_VALID: only those two, which clear them, and the instance's own Complete. BUF_LEN: only a Reset, with 0, and a host's change of the instance's
buffer, while the instance is not BUSY. That this change may be made through another instance that is given the same buffer is the model's choice, where R44
says that instances share no register (DESIGN CHOICE, log entry 9). -/
def Obligations.RegistersWrittenOnlyByAcceptCompleteReset : Prop :=
  ∀ (s t : State) (j : Nat) (d d' : Decoder), step s = .next t → s.decs[j]? = some d → t.decs[j]? = some d' →
    ((d'.reqOffset = d.reqOffset ∧ d'.resp = d.resp ∧ d'.respValid = d.respValid) ∨
      ((∃ (no : Nat) (h : HostAgent) (o : OffsetArg),
          (s.hostAt no h (.on j (.decode o)) ∨ s.hostAt no h (.on j (.request o))) ∧ d'.reqOffset = o.value h) ∧
        d.ctrl ≠ ctrlBusy ∧ d'.ctrl = ctrlBusy ∧ d'.resp = Response.zero ∧ d'.respValid = 0) ∨
      (s.nextTurn = .decoder j ∧ d.ctrl = ctrlBusy ∧ d'.ctrl = ctrlDone ∧ d'.reqOffset = d.reqOffset ∧ d'.respValid = 1 ∧
        completeResponse { d with buf := s.buffer d.bufId } = some d'.resp) ∨
      ((s.nextTurn = .reset j ∨ ∃ (no : Nat) (h : HostAgent), s.hostAt no h (.on j .reset)) ∧
        d'.ctrl = ctrlIdle ∧ d'.reqOffset = 0 ∧ d'.resp = Response.zero ∧ d'.respValid = 0)) ∧
    (d'.bufLen = d.bufLen ∨
      ((s.nextTurn = .reset j ∨ ∃ (no : Nat) (h : HostAgent), s.hostAt no h (.on j .reset)) ∧ d'.bufLen = 0) ∨
      (d.ctrl ≠ ctrlBusy ∧ d'.bufLen ≤ d.params.bufCapacity ∧
        ∃ (no k : Nat) (h : HostAgent) (op : Op) (d₀ : Decoder),
          s.hostAt no h (.on k op) ∧ op.changesBuffer = true ∧ s.decs[k]? = some d₀ ∧ d₀.bufId = d.bufId))

/-- Accept, by a DECODE line or a request alone: what it writes from IDLE and DONE, for every offset of ADDR_WIDTH bits; while BUSY there is no Accept. -/
def Obligations.AcceptRegisters : Prop :=
  ∀ (s s' : State) (no : Nat) (h : HostAgent) (o : OffsetArg),
    (s.hostReady s' no h (.request o) ∨ s.hostReady s' no h (.decode o) ∧ h.awaiting = false) →
    ((s'.dec.ctrl = ctrlIdle ∨ s'.dec.ctrl = ctrlDone) → o.value h < 2 ^ s'.dec.params.addrWidth →
      ∃ (t : State) (h' : HostAgent), step s = .next t ∧ t.dec.reqOffset = o.value h ∧ t.dec.respValid = 0 ∧ t.dec.resp.status = 0 ∧
        t.dec.resp.type = 0x00 ∧ t.dec.resp.dispatch = 0b0000 ∧ t.dec.resp.channel = 0 ∧ t.dec.resp.length = 0 ∧
        t.dec.resp.payloadStart = 0 ∧ t.dec.resp.consumed = 0 ∧ t.dec.resp.errByte = 0x00 ∧ t.dec.resp.need = 0 ∧
        t.dec.resp.payload = [] ∧ t.dec.ctrl = 0b01 ∧ t.dec.bufLen = s'.dec.bufLen ∧ t.dec.params = s'.dec.params ∧
        t.dec.bufId = s'.dec.bufId ∧ t.left = s'.left ∧ t.right = s'.right ∧ t.buffers = s'.buffers ∧
        t.hosts = s'.hosts.set no h' ∧ h'.cur = h.cur) ∧
    (s'.dec.ctrl = ctrlBusy → ∀ t : State, step s ≠ .next t)

/-- Reset, in every controller state: every register of R42; the parameters, the buffers' contents, the hosts and the other instances stay. -/
def Obligations.ResetEventRegisters : Prop :=
  ∀ s s' : State, s.resetReady s' →
    ∃ t : State, step s = .next t ∧ t.dec.ctrl = 0b00 ∧ t.dec.reqOffset = 0 ∧ t.dec.respValid = 0 ∧ t.dec.resp.status = 0 ∧
      t.dec.resp.type = 0x00 ∧ t.dec.resp.dispatch = 0b0000 ∧ t.dec.resp.channel = 0 ∧ t.dec.resp.length = 0 ∧
      t.dec.resp.payloadStart = 0 ∧ t.dec.resp.consumed = 0 ∧ t.dec.resp.errByte = 0x00 ∧ t.dec.resp.need = 0 ∧
      t.dec.resp.payload = [] ∧ t.dec.bufLen = 0 ∧ t.dec.params = s'.dec.params ∧ t.dec.bufId = s'.dec.bufId ∧ t.left = s'.left ∧
      t.right = s'.right ∧ t.buffers = s'.buffers ∧ t.hosts = s'.hosts

/-- The registers of the machine right after reset. FRAME_MAX_CFG holds the spec's default. -/
def Obligations.ResetStateRegisters : Prop :=
  (∀ d ∈ State.reset.decs, d.ctrl = 0b00 ∧ d.reqOffset = 0 ∧ d.respValid = 0 ∧ d.resp.status = 0 ∧ d.resp.type = 0x00 ∧
    d.resp.dispatch = 0b0000 ∧ d.resp.channel = 0 ∧ d.resp.length = 0 ∧ d.resp.payloadStart = 0 ∧ d.resp.consumed = 0 ∧
    d.resp.errByte = 0x00 ∧ d.resp.need = 0 ∧ d.resp.payload = [] ∧ d.bufLen = 0 ∧ d.params.frameMax = 0xFFFFFFFF) ∧
  (∀ h ∈ State.reset.hosts, h.cur = 0) ∧ State.reset.decs.length = 1 ∧ State.reset.hosts.length = 1

/-- The legal-state invariant is kept by every step. -/
def Obligations.StepKeepsLegalMachine : Prop :=
  ∀ s t : State, s.Inv → step s = .next t → t.Inv

/-- The machine right after reset is legal. -/
def Obligations.ResetMachineIsLegal : Prop :=
  State.reset.Inv

/-- A legal machine never faults, and no machine reads outside a buffer. A machine that has reached a reserved code faults: where an instance's own turn or
a host's action, its own reset among them, finds CTRL_STATE 0b11, and where a host's action reads RESP_STATUS 6 or 7. Which turns and actions reach a reserved
code, the last two clauses, is the model's reading (DEDUCED, log entry 15). -/
def Obligations.ReservedCodesAloneFault : Prop :=
  (∀ (s : State) (r : Fault), s.Inv → step s ≠ .fault r) ∧
  (∀ s : State, step s ≠ .fault .readOutsideBuffer) ∧
  (∀ (s : State) (k : Nat) (d : Decoder), s.decs[k]? = some d → d.ctrl = ctrlReserved →
    (s.nextTurn = .decoder k ∨ ∃ (no : Nat) (h : HostAgent) (op : Op), s.hostAt no h (.on k op)) →
    step s = .fault .reservedCtrlState) ∧
  (∀ (s s' : State) (no : Nat) (h : HostAgent), statusReserved s'.dec.resp.status = true →
    (s.hostReady s' no h (.read .respStatus) ∨
      (∃ addr : Nat, s.hostReady s' no h (.readAt addr) ∧ regAtAddress s'.dec.params addr = some .respStatus) ∨
      (s.hostReady s' no h .advance ∧ s'.dec.respValid = 1) ∨
      ∃ (st : Status) (line : Nat), s.hostReady s' no h (.ifStatus st line)) →
    step s = .fault .reservedStatus)

/-- At most one bit of RESP_DISPATCH is set, and one is set in every held OK response. -/
def Obligations.DispatchIsOneHot : Prop :=
  ∀ d : Decoder, d.Inv →
    (d.resp.dispatch = 0 ∨ d.resp.dispatch = 1 ∨ d.resp.dispatch = 2 ∨ d.resp.dispatch = 4 ∨ d.resp.dispatch = 8) ∧
    (d.respValid = 1 → d.resp.status = Status.ok.code → d.resp.dispatch ≠ 0)

/-- While RESP_VALID = 0 a host that reads the response registers reads zeros. -/
def Obligations.InvalidResponseReadsAsZero : Prop :=
  ∀ d : Decoder, d.Inv → d.respValid = 0 →
    (∀ r ∈ [Reg.respStatus, .respType, .respDispatch, .respChannel, .respLength, .respPayloadStart, .respConsumed, .respErrByte,
        .respNeed], d.readReg r = .word 0) ∧
    d.readReg .respPayload = .bytes []

/-- The parameters of every instance, FRAME_MAX_CFG among them, never change. -/
def Obligations.ParametersNeverChange : Prop :=
  ∀ s t : State, step s = .next t → t.decs.map (fun d => d.params) = s.decs.map (fun d => d.params)

/-- The block never writes a buffer: an instance's own step and a Reset change no stored byte. -/
def Obligations.BlockNeverWritesBuffer : Prop :=
  ∀ s t : State, step s = .next t → (∀ no : Nat, s.nextTurn ≠ .host no) → t.buffers = s.buffers

/-- A step changes only the instance and the host that it is a step of, and no instance's buffer is another one after it. The exceptions are a host's change
of a shared buffer, which sets BUF_LEN of every instance that is given it, and the mark of the host whose request is answered. -/
def Obligations.StepLeavesOtherInstances : Prop :=
  ∀ s t : State, step s = .next t →
    t.decs.length = s.decs.length ∧ t.hosts.length = s.hosts.length ∧ t.buffers.length = s.buffers.length ∧
      t.turns = s.turns.tail ∧ t.decs.map (fun d => d.bufId) = s.decs.map (fun d => d.bufId) ∧
      (∀ (j : Nat) (d d' : Decoder), s.nextTurn ≠ .decoder j → s.nextTurn ≠ .reset j →
        (∀ (no : Nat) (h : HostAgent) (op : Op), ¬ s.hostAt no h (.on j op)) → s.decs[j]? = some d → t.decs[j]? = some d' →
        d' = d ∨ ∃ (no k n : Nat) (h : HostAgent) (op : Op) (d₀ : Decoder), s.hostAt no h (.on k op) ∧ op.changesBuffer = true ∧
          s.decs[k]? = some d₀ ∧ d₀.bufId = d.bufId ∧ d' = { d with bufLen := n }) ∧
      (∀ b : Nat, t.buffers[b]? = s.buffers[b]? ∨ ∃ (no k : Nat) (h : HostAgent) (op : Op) (d₀ : Decoder),
        s.hostAt no h (.on k op) ∧ op.changesBuffer = true ∧ s.decs[k]? = some d₀ ∧ d₀.bufId = b) ∧
      (∀ (no : Nat) (h h' : HostAgent), s.nextTurn ≠ .host no → s.hosts[no]? = some h → t.hosts[no]? = some h' →
        h' = h ∨ h' = { h with structural := true } ∧ ∃ (j : Nat) (d : Decoder), s.nextTurn = .decoder j ∧ s.decs[j]? = some d ∧
          d.requester = some no)

/-- What a step does with the instances that are given one buffer depends on them, on that buffer and on the hosts alone: two machines that agree there step
alike there, whatever their other instances and buffers are. -/
def Obligations.StepIgnoresOtherBuffers : Prop :=
  ∀ (s₁ s₂ t₁ : State) (b : Nat), s₂.nextTurn = s₁.nextTurn → s₂.hosts = s₁.hosts → s₂.draws = s₁.draws → s₂.group b = s₁.group b →
    s₂.buffers[b]? = s₁.buffers[b]? →
    (∀ j : Nat, (s₁.nextTurn = .decoder j ∨ s₁.nextTurn = .reset j ∨ ∃ (no : Nat) (h : HostAgent) (op : Op), s₁.hostAt no h (.on j op)) →
      ∃ d : Decoder, s₁.decs[j]? = some d ∧ d.bufId = b) →
    step s₁ = .next t₁ →
    ∃ t₂ : State, step s₂ = .next t₂ ∧ t₂.hosts = t₁.hosts ∧ t₂.draws = t₁.draws ∧ t₂.group b = t₁.group b ∧
      t₂.buffers[b]? = t₁.buffers[b]?

/-- Where no turn is listed and some instance is BUSY, a step completes one, so that their number falls by one. -/
def Obligations.BusyInstancesComplete : Prop :=
  ∀ s : State, s.turns = [] → (∃ d ∈ s.decs, d.ctrl = ctrlBusy) →
    ∃ t : State, step s = .next t ∧ t.turns = [] ∧
      t.decs.countP (fun d => decide (d.ctrl = ctrlBusy)) + 1 = s.decs.countP (fun d => decide (d.ctrl = ctrlBusy))

/-! ## The host -/

/-- BUF := bytes (R126): the buffer is the bytes, for every instance that is given it; every stored byte outside them and every other register stays.
Of the host, the line moves on and the instance counts as used; all else of it stays. -/
def Obligations.BufferWriteEffect : Prop :=
  ∀ (s s' : State) (no : Nat) (h : HostAgent) (bs : List Byte), s.Inv → s.hostReady s' no h (.write bs) → s'.sharedBusy = false →
    bs.length ≤ s'.capacity → s'.onLoan 0 bs.length = false →
    ∃ (t : State) (h' : HostAgent), step s = .next t ∧ t.lane.bytes = bs ∧ t.dec.bufLen = bs.length ∧
      (∀ a : Nat, bs.length ≤ a → Memory.read t.lane.buf a = Memory.read s'.lane.buf a) ∧ s'.onlyBufferChanges t bs.length ∧
      t.hosts = s'.hosts.set no h' ∧ h' = { h with line := h.line + 1, awaiting := false, used := h'.used }

/-- APPEND bytes (R126): the buffer is extended; every stored byte outside the added range and every other register stays. Of the host, the line moves on and
the instance counts as used; all else of it stays. -/
def Obligations.AppendEffect : Prop :=
  ∀ (s s' : State) (no : Nat) (h : HostAgent) (bs : List Byte), s.Inv → s.hostReady s' no h (.append bs) → s'.sharedBusy = false →
    s'.dec.bufLen + bs.length ≤ s'.capacity → s'.onLoan s'.dec.bufLen (s'.dec.bufLen + bs.length) = false →
    ∃ (t : State) (h' : HostAgent), step s = .next t ∧ t.lane.bytes = s'.lane.bytes ++ bs ∧ t.dec.bufLen = s'.dec.bufLen + bs.length ∧
      (∀ a : Nat, (a < s'.dec.bufLen ∨ s'.dec.bufLen + bs.length ≤ a) → Memory.read t.lane.buf a = Memory.read s'.lane.buf a) ∧
      s'.onlyBufferChanges t (s'.dec.bufLen + bs.length) ∧ t.hosts = s'.hosts.set no h' ∧
      h' = { h with line := h.line + 1, awaiting := false, used := h'.used }

/-- DROP k (R136): the prefix is discarded, the rest is shifted down and the cursor re-based; the response registers are unchanged. A drop of more bytes
than the buffer holds re-bases the cursor too; what the buffer then holds, the spec does not state, and nothing is said of it but that it is within the
capacity and leaves the storage beyond it and the bytes of a live window as they were. Of the host, the cursor is re-based, the line moves on and the instance
counts as used; all else of it stays. -/
def Obligations.DropEffect : Prop :=
  ∀ (s s' : State) (no : Nat) (h : HostAgent) (k : Nat), s.Inv → s.hostReady s' no h (.drop k) → s'.sharedBusy = false → k ≤ h.cur →
    (k ≤ s'.dec.bufLen → (k = 0 ∨ s'.onLoan 0 k = false ∧ s'.onLoan 0 (s'.dec.bufLen - k) = false) →
      ∃ (t : State) (h' : HostAgent), step s = .next t ∧ t.lane.bytes = s'.lane.bytes.drop k ∧ t.dec.bufLen = s'.dec.bufLen - k ∧
        (∀ a : Nat, s'.dec.bufLen - k ≤ a → Memory.read t.lane.buf a = Memory.read s'.lane.buf a) ∧
        s'.onlyBufferChanges t (s'.dec.bufLen - k) ∧ t.hosts = s'.hosts.set no h' ∧
        h' = { h with cur := h.cur - k, line := h.line + 1, awaiting := false, used := h'.used }) ∧
    (s'.dec.bufLen < k → s'.onLoan 0 k = false →
      ∃ (t : State) (h' : HostAgent), step s = .next t ∧ t.dec.bufLen ≤ s'.capacity ∧ s'.onlyBufferChanges t t.dec.bufLen ∧
        (∀ a : Nat, (t.dec.bufLen ≤ a ∨ s'.onLoan a (a + 1) = true) → Memory.read t.lane.buf a = Memory.read s'.lane.buf a) ∧
        t.hosts = s'.hosts.set no h' ∧ h' = { h with cur := h.cur - k, line := h.line + 1, awaiting := false, used := h'.used })

/-- ADVANCE (R130): after OK the frame is handed on and the cursor moves by RESP_CONSUMED; after an error nothing is handed on and it stays. Of the host,
the line moves on and the instance counts as used besides; all else of it stays. -/
def Obligations.AdvanceEffect : Prop :=
  ∀ (s s' : State) (no : Nat) (h : HostAgent), s.hostReady s' no h .advance → s'.dec.Inv → s'.dec.respValid = 1 →
    ∃ h' : HostAgent, step s = .next (s'.setHost no h') ∧ h'.cur = h.cur + s'.dec.resp.consumed ∧
      h' = { h with cur := h'.cur, delivered := h'.delivered, line := h.line + 1, awaiting := false, used := h'.used } ∧
      (s'.dec.resp.status = Status.ok.code →
        ∃ ft : FrameType, s'.dec.resp.type = ft.tag ∧
          h'.delivered = h.delivered ++ [{ type := ft, channel := s'.dec.resp.channel, payload := s'.dec.resp.payload }]) ∧
      (s'.dec.resp.status ≠ Status.ok.code → h'.cur = h.cur ∧ h'.delivered = h.delivered)

/-- A register read has no side effect on any instance, and the value read is the register's: what each of the fifteen registers of R24 gives, by name. -/
def Obligations.RegisterReadHasNoSideEffect : Prop :=
  ∀ (s s' : State) (no : Nat) (h : HostAgent) (r : Reg), s.hostReady s' no h (.read r) →
    (r = .respStatus → statusReserved s'.dec.resp.status = false) →
    ∃ h' : HostAgent, step s = .next (s'.setHost no h') ∧ h'.seen = some (s'.dec.readReg r) ∧
      h' = { h with seen := h'.seen, line := h.line + 1, awaiting := false, used := h'.used } ∧
      (r = .ctrlState → h'.seen = some (.word s'.dec.ctrl.toNat)) ∧
      (r = .reqOffset → h'.seen = some (.word s'.dec.reqOffset)) ∧
      (r = .respValid → h'.seen = some (.word s'.dec.respValid.toNat)) ∧
      (r = .respStatus → h'.seen = some (.word s'.dec.resp.status.toNat)) ∧
      (r = .respType → h'.seen = some (.word s'.dec.resp.type.toNat)) ∧
      (r = .respDispatch → h'.seen = some (.word s'.dec.resp.dispatch.toNat)) ∧
      (r = .respChannel → h'.seen = some (.word s'.dec.resp.channel.toNat)) ∧
      (r = .respLength → h'.seen = some (.word s'.dec.resp.length.toNat)) ∧
      (r = .respPayloadStart → h'.seen = some (.word s'.dec.resp.payloadStart)) ∧
      (r = .respConsumed → h'.seen = some (.word s'.dec.resp.consumed)) ∧
      (r = .respErrByte → h'.seen = some (.word s'.dec.resp.errByte.toNat)) ∧
      (r = .respNeed → h'.seen = some (.word s'.dec.resp.need.toNat)) ∧
      (r = .bufLen → h'.seen = some (.word s'.dec.bufLen)) ∧
      (r = .frameMaxCfg → h'.seen = some (.word s'.dec.params.frameMax.toNat)) ∧
      (r = .respPayload → h'.seen = some (.bytes s'.dec.resp.payload))

/-- The DECODE line: its request, then its wait, which has no effect while BUSY, is over when RESP_VALID = 1, and requests again after a Reset ended it (log
entries 13 and 30). Of the host nothing changes but what is named and that the instance counts as used. -/
def Obligations.DecodeLineWaits : Prop :=
  ∀ (s s' : State) (no : Nat) (h : HostAgent) (o : OffsetArg), s.hostReady s' no h (.decode o) →
    (h.awaiting = false → s'.dec.ctrl ≠ ctrlBusy → o.value h < 2 ^ s'.dec.params.addrWidth →
      ∃ (t : State) (h' : HostAgent), step s = .next t ∧ t.hosts = s'.hosts.set no h' ∧ h' = { h with awaiting := true, used := h'.used }) ∧
    (h.awaiting = true → s'.dec.ctrl = ctrlBusy →
      ∃ h' : HostAgent, step s = .next (s'.setHost no h') ∧ h' = { h with used := h'.used }) ∧
    (h.awaiting = true → s'.dec.ctrl ≠ ctrlBusy → s'.dec.respValid = 1 →
      ∃ (t : State) (h' : HostAgent), step s = .next t ∧ s'.sameInstances t ∧ t.hosts = s'.hosts.set no h' ∧
        h' = { h with line := h.line + 1, awaiting := false, used := h'.used }) ∧
    (h.awaiting = true → s'.dec.ctrl ≠ ctrlBusy → s'.dec.respValid = 0 →
      ∃ h' : HostAgent, step s = .next (s'.setHost no h') ∧ h' = { h with awaiting := false, used := h'.used })

/-- The branch on RESP_STATUS, GOTO, HALT and ABORT. The run is over when every instance that the host has used is IDLE or DONE at present (log entry 27),
and an aborted one has failed where the host was marked. None of them moves the cursor; of the host nothing changes but what is named and, at the branch, that
the instance counts as used. -/
def Obligations.HostControlFlow : Prop :=
  (∀ (s s' : State) (no : Nat) (h : HostAgent) (st : Status) (line : Nat), s.hostReady s' no h (.ifStatus st line) →
    statusReserved s'.dec.resp.status = false →
    ∃ h' : HostAgent, step s = .next (s'.setHost no h') ∧
      h' = { h with line := if s'.dec.respValid = 1 ∧ s'.dec.resp.status = st.code then line else h.line + 1, awaiting := false,
                    used := h'.used }) ∧
  (∀ (s : State) (no : Nat) (h : HostAgent) (line : Nat), s.hostAt no h (.goto line) →
    step s = .next (s.usedTurn.setHost no { h with line := line, awaiting := false })) ∧
  (∀ (s : State) (no : Nat) (h : HostAgent), s.hostAt no h .halt ∨ s.hostAt no h .abort →
    ∃ (t : State) (h' : HostAgent), step s = .next t ∧ t = s.usedTurn.setHost no h' ∧
      (s.hostAt no h .halt → h' = { h with run := .halted } ∧ t.runFailed h' = false) ∧
      (s.hostAt no h .abort → h' = { h with run := .aborted h.structural } ∧ (t.runFailed h' = true ↔ t.runOver h' = true ∧ h.structural = true)) ∧
      (t.runOver h' = true ↔ ∀ k ∈ h.used, ∀ d : Decoder, s.decs[k]? = some d → d.ctrl = ctrlIdle ∨ d.ctrl = ctrlDone))

/-- The mark of a structural error, which makes a run that ABORT ends a failed one: it is set by the Complete that answers the host's request with
UNKNOWN_TYPE or INVALID_END and by nothing else, and the start of a new stream, and only that, clears it. What else of a host a step leaves: its program never
changes; the cursor changes by ADVANCE and DROP alone (R133) and by START (DESIGN CHOICE, log entry 14); the frames handed on by ADVANCE alone, and the last
value read by a read alone (log entry 22); the run by HALT and ABORT alone, and a run that has ended stays as it ended. The host whose request it is, is the
one that made it, and a host has used the instances it has acted on (log entry 27). -/
def Obligations.StructuralErrorMarksRun : Prop :=
  (∀ (s s' : State) (no : Nat) (h : HostAgent), s.decoderReady s' → s'.dec.requester = some no → s.hosts[no]? = some h →
    ∃ (t : State) (h' : HostAgent), step s = .next t ∧ t.hosts[no]? = some h' ∧
      (h'.structural = true ↔ h.structural = true ∨ t.dec.resp.status = Status.unknownType.code ∨
        t.dec.resp.status = Status.invalidEnd.code)) ∧
  (∀ (s : State) (no : Nat) (h : HostAgent), s.hostAt no h .start →
    ∃ (t : State) (h' : HostAgent), step s = .next t ∧ t.hosts[no]? = some h' ∧ h'.structural = false) ∧
  (∀ (s t : State) (no : Nat) (h h' : HostAgent), step s = .next t → s.hosts[no]? = some h → t.hosts[no]? = some h' →
    (h'.structural = h.structural ∨
      (h'.structural = true ∧ ∃ s' : State, s.decoderReady s' ∧ s'.dec.requester = some no ∧
        (t.dec.resp.status = Status.unknownType.code ∨ t.dec.resp.status = Status.invalidEnd.code)) ∨
      (h'.structural = false ∧ s.hostAt no h .start)) ∧
    h'.program = h.program ∧
    (h'.cur = h.cur ∨ s.hostAt no h .start ∨
      ∃ j : Nat, s.hostAt no h (.on j .advance) ∨ ∃ k : Nat, s.hostAt no h (.on j (.drop k))) ∧
    (h'.delivered = h.delivered ∨ ∃ j : Nat, s.hostAt no h (.on j .advance)) ∧
    (h'.seen = h.seen ∨ ∃ j : Nat, (∃ r : Reg, s.hostAt no h (.on j (.read r))) ∨ ∃ addr : Nat, s.hostAt no h (.on j (.readAt addr))) ∧
    (h'.run = h.run ∨ s.hostAt no h .halt ∨ s.hostAt no h .abort) ∧
    (h.run ≠ .running → h'.run = h.run)) ∧
  (∀ (s s' : State) (no : Nat) (h : HostAgent) (o : OffsetArg),
    (s.hostReady s' no h (.request o) ∨ s.hostReady s' no h (.decode o) ∧ h.awaiting = false) → s'.dec.ctrl ≠ ctrlBusy →
    o.value h < 2 ^ s'.dec.params.addrWidth → ∃ t : State, step s = .next t ∧ t.dec.requester = some no) ∧
  (∀ (s s' t : State) (no : Nat) (h : HostAgent) (op : Op), s.hostReady s' no h op → step s = .next t →
    ∃ h' : HostAgent, t.hosts[no]? = some h' ∧ ∀ k : Nat, k ∈ h'.used ↔ k ∈ h.used ∨ k = s'.focused)

/-- The steps that do not exist, each refused by name: a request while BUSY or of an offset that ADDR_WIDTH bits cannot hold; a buffer change while an
instance that is given the buffer is BUSY, beyond its capacity, or that meets a borrowed window; a drop of a prefix that is not consumed; an advance while
RESP_VALID = 0; and a wait where nothing is waited for. -/
def Obligations.HostStepsThatDoNotExist : Prop :=
  ∀ (s s' : State) (no : Nat) (h : HostAgent),
    (∀ o : OffsetArg, (s.hostReady s' no h (.request o) ∨ s.hostReady s' no h (.decode o) ∧ h.awaiting = false) →
      (s'.dec.ctrl = ctrlBusy → step s = .refused .requestWhileBusy) ∧
      (s'.dec.ctrl ≠ ctrlBusy → 2 ^ s'.dec.params.addrWidth ≤ o.value h → step s = .refused .offsetTooWide)) ∧
    (s'.sharedBusy = true →
      (∀ bs : List Byte, s.hostReady s' no h (.write bs) ∨ s.hostReady s' no h (.append bs) → step s = .refused .bufferChangeWhileBusy) ∧
      (∀ k : Nat, s.hostReady s' no h (.drop k) → step s = .refused .bufferChangeWhileBusy)) ∧
    (s'.sharedBusy = false →
      (∀ bs : List Byte, s.hostReady s' no h (.write bs) →
        (s'.capacity < bs.length → step s = .refused .overCapacity) ∧
        (bs.length ≤ s'.capacity → s'.onLoan 0 bs.length = true → step s = .refused .borrowedWindow)) ∧
      (∀ bs : List Byte, s.hostReady s' no h (.append bs) →
        (s'.capacity < s'.dec.bufLen + bs.length → step s = .refused .overCapacity) ∧
        (s'.dec.bufLen + bs.length ≤ s'.capacity → s'.onLoan s'.dec.bufLen (s'.dec.bufLen + bs.length) = true →
          step s = .refused .borrowedWindow)) ∧
      (∀ k : Nat, s.hostReady s' no h (.drop k) →
        (h.cur < k → step s = .refused .dropNotConsumed) ∧
        (k ≤ h.cur → k ≤ s'.dec.bufLen → k ≠ 0 → s'.dec.bufLen ≤ s'.capacity →
          (s'.onLoan 0 k = true ∨ s'.onLoan 0 (s'.dec.bufLen - k) = true) → step s = .refused .borrowedWindow) ∧
        (k ≤ h.cur → s'.dec.bufLen < k → s'.onLoan 0 k = true → step s = .refused .borrowedWindow))) ∧
    (s'.dec.respValid = 0 →
      (s.hostReady s' no h .advance → step s = .refused .advanceNotEnabled) ∧
      (s.hostReady s' no h .wait → s'.dec.ctrl ≠ ctrlBusy → h.awaiting = false → s'.dec.requester ≠ some no →
        step s = .refused .waitNotEnabled))

/-- The host's other actions: a request alone goes on to the next line, so that the host can act on other instances before it waits; the wait alone (log
entries 10, 13 and 30); a register read at its address, with the index that R24 gives each register (log entry 19 for base and stride); a Reset by the host;
the start of a new stream (log entries 14 and 27); and the release of the borrowed frames (log entry 6). Of the host nothing changes but what is named and, at
an action on an instance, that the instance counts as used. -/
def Obligations.OtherHostActions : Prop :=
  (∀ (s s' : State) (no : Nat) (h : HostAgent) (o : OffsetArg), s.hostReady s' no h (.request o) → s'.dec.ctrl ≠ ctrlBusy →
    o.value h < 2 ^ s'.dec.params.addrWidth →
    ∃ (t : State) (h' : HostAgent), step s = .next t ∧ t.hosts = s'.hosts.set no h' ∧
      h' = { h with line := h.line + 1, awaiting := false, used := h'.used }) ∧
  (∀ (s s' : State) (no : Nat) (h : HostAgent), s.hostReady s' no h .wait →
    (s'.dec.ctrl = ctrlBusy →
      ∃ h' : HostAgent, step s = .next (s'.setHost no h') ∧ h' = { h with awaiting := true, used := h'.used }) ∧
    (s'.dec.ctrl ≠ ctrlBusy → (s'.dec.respValid = 1 ∨ h.awaiting = true ∨ s'.dec.requester = some no) →
      ∃ (t : State) (h' : HostAgent), step s = .next t ∧ s'.sameInstances t ∧ t.hosts = s'.hosts.set no h' ∧
        h' = { h with line := h.line + 1, awaiting := false, used := h'.used })) ∧
  (∀ (s s' : State) (no : Nat) (h : HostAgent) (r : Reg) (k : Nat),
    s.hostReady s' no h (.readAt (s'.dec.params.regBase + k * s'.dec.params.regStride)) → s'.dec.params.regStride ≠ 0 →
    r.index = some k → (r = .respStatus → statusReserved s'.dec.resp.status = false) →
    ∃ h' : HostAgent, step s = .next (s'.setHost no h') ∧ h'.seen = some (s'.dec.readReg r) ∧
      h' = { h with seen := h'.seen, line := h.line + 1, awaiting := false, used := h'.used }) ∧
  (Reg.ctrlState.index = some 0x00 ∧ Reg.reqOffset.index = some 0x01 ∧ Reg.respValid.index = some 0x02 ∧
    Reg.respStatus.index = some 0x03 ∧ Reg.respType.index = some 0x04 ∧ Reg.respDispatch.index = some 0x05 ∧
    Reg.respChannel.index = some 0x06 ∧ Reg.respLength.index = some 0x07 ∧ Reg.respPayloadStart.index = some 0x08 ∧
    Reg.respConsumed.index = some 0x09 ∧ Reg.respErrByte.index = some 0x0A ∧ Reg.respNeed.index = some 0x0B ∧
    Reg.bufLen.index = some 0x0C ∧ Reg.frameMaxCfg.index = some 0x0D ∧ Reg.respPayload.index = none) ∧
  (∀ (s s' : State) (no : Nat) (h : HostAgent), s.hostReady s' no h .reset →
    ∃ (t : State) (h' : HostAgent), step s = .next t ∧ t.dec.ctrl = 0b00 ∧ t.dec.reqOffset = 0 ∧ t.dec.respValid = 0 ∧
      t.dec.resp = Response.zero ∧ t.dec.bufLen = 0 ∧ t.dec.params = s'.dec.params ∧ t.dec.borrowed = s'.dec.borrowed ∧
      t.left = s'.left ∧ t.right = s'.right ∧ t.buffers = s'.buffers ∧ t.hosts = s'.hosts.set no h' ∧
      h' = { h with line := h.line + 1, awaiting := false, used := h'.used }) ∧
  (∀ (s : State) (no : Nat) (h : HostAgent), s.hostAt no h .start →
    step s = .next (s.usedTurn.setHost no { h with cur := 0, structural := false, line := h.line + 1, awaiting := false })) ∧
  (∀ (s s' : State) (no : Nat) (h : HostAgent), s.hostReady s' no h .release →
    ∃ (t : State) (h' : HostAgent), step s = .next t ∧ s'.dec.sameRegs t.dec ∧ t.dec.borrowed = [] ∧ t.left = s'.left ∧
      t.right = s'.right ∧ t.buffers = s'.buffers ∧ t.hosts = s'.hosts.set no h' ∧
      h' = { h with line := h.line + 1, awaiting := false, used := h'.used })
end

