-- ==== Sys2Proof/Laws/Bytes.lean ====
section
/-!
SUPPORT. The big-endian fields (R10, R49): values of `be16` and `be32`, and that `bytes16` and `bytes32` are their inverses.
-/

namespace Sys2Proof

/-- The value of a 2-byte field. -/
theorem toNat_be16 (a b : Byte) : (be16 a b).toNat = 256 * a.toNat + b.toNat := by
  unfold be16
  rw [BitVec.toNat_append, ← Nat.shiftLeft_add_eq_or_of_lt b.isLt, Nat.shiftLeft_eq]
  omega

/-- The value of a 4-byte field. -/
theorem toNat_be32 (a b c d : Byte) :
    (be32 a b c d).toNat = 16777216 * a.toNat + 65536 * b.toNat + 256 * c.toNat + d.toNat := by
  unfold be32
  simp only [BitVec.toNat_append]
  rw [← Nat.shiftLeft_add_eq_or_of_lt b.isLt, ← Nat.shiftLeft_add_eq_or_of_lt c.isLt, ← Nat.shiftLeft_add_eq_or_of_lt d.isLt]
  simp only [Nat.shiftLeft_eq]
  omega

/-- `be16` after `bytes16`. -/
theorem be16_extract (v : BitVec 16) : be16 (v.extractLsb' 8 8) (v.extractLsb' 0 8) = v := by
  apply BitVec.eq_of_toNat_eq
  rw [toNat_be16]
  simp only [BitVec.extractLsb'_toNat, Nat.shiftRight_eq_div_pow]
  omega

/-- `be32` after `bytes32`. -/
theorem be32_extract (v : BitVec 32) :
    be32 (v.extractLsb' 24 8) (v.extractLsb' 16 8) (v.extractLsb' 8 8) (v.extractLsb' 0 8) = v := by
  apply BitVec.eq_of_toNat_eq
  rw [toNat_be32]
  simp only [BitVec.extractLsb'_toNat, Nat.shiftRight_eq_div_pow]
  omega

/-- `bytes16` after `be16`. -/
theorem bytes16_be16 (a b : Byte) : bytes16 (be16 a b) = [a, b] := by
  have h := toNat_be16 a b
  have ha := a.isLt
  have hb := b.isLt
  have h1 : (be16 a b).extractLsb' 8 8 = a := by
    apply BitVec.eq_of_toNat_eq
    simp only [BitVec.extractLsb'_toNat, Nat.shiftRight_eq_div_pow, h]; omega
  have h2 : (be16 a b).extractLsb' 0 8 = b := by
    apply BitVec.eq_of_toNat_eq
    simp only [BitVec.extractLsb'_toNat, Nat.shiftRight_eq_div_pow, h]; omega
  simp only [bytes16, h1, h2]

/-- `bytes32` after `be32`. -/
theorem bytes32_be32 (a b c d : Byte) : bytes32 (be32 a b c d) = [a, b, c, d] := by
  have h := toNat_be32 a b c d
  have ha := a.isLt
  have hb := b.isLt
  have hc := c.isLt
  have hd := d.isLt
  have h1 : (be32 a b c d).extractLsb' 24 8 = a := by
    apply BitVec.eq_of_toNat_eq
    simp only [BitVec.extractLsb'_toNat, Nat.shiftRight_eq_div_pow, h]; omega
  have h2 : (be32 a b c d).extractLsb' 16 8 = b := by
    apply BitVec.eq_of_toNat_eq
    simp only [BitVec.extractLsb'_toNat, Nat.shiftRight_eq_div_pow, h]; omega
  have h3 : (be32 a b c d).extractLsb' 8 8 = c := by
    apply BitVec.eq_of_toNat_eq
    simp only [BitVec.extractLsb'_toNat, Nat.shiftRight_eq_div_pow, h]; omega
  have h4 : (be32 a b c d).extractLsb' 0 8 = d := by
    apply BitVec.eq_of_toNat_eq
    simp only [BitVec.extractLsb'_toNat, Nat.shiftRight_eq_div_pow, h]; omega
  simp only [bytes32, h1, h2, h3, h4]

end Sys2Proof
end

