-- ==== Sys2Proof/Laws/Memory.lean ====
section
/-!
SUPPORT. The laws of the buffer's storage: what a read gives after a write, the canonical form, slices, and the reads of a lane.
-/

namespace Sys2Proof.Machine

/-- The canonical form of a non-empty memory, taken apart. -/
theorem Memory.wf_cons (a : Nat) (b : Byte) (m : Memory) :
    Memory.wf ((a, b) :: m) = true ↔ b ≠ Memory.unlisted ∧ (∀ c ∈ m, a < c.1) ∧ Memory.wf m = true := by
  simp [Memory.wf, and_assoc]

/-- An address below every listed one reads as unlisted. -/
theorem Memory.read_of_lt (m : Memory) (a : Nat) (h : ∀ c ∈ m, a < c.1) : Memory.read m a = Memory.unlisted := by
  cases m with
  | nil => rfl
  | cons c m =>
    have hc := h c (by simp)
    have : a ≠ c.1 := by omega
    simp [Memory.read, this, hc]

/-- A read after a write. -/
theorem Memory.read_write (m : Memory) (hm : Memory.wf m = true) (a : Nat) (b : Byte) (x : Nat) :
    Memory.read (Memory.write m a b) x = if x = a then b else Memory.read m x := by
  induction m with
  | nil =>
    by_cases hb : b = Memory.unlisted <;> by_cases hx : x = a <;> simp [Memory.write, Memory.read, hb, hx]
  | cons c m ih =>
    obtain ⟨a', b'⟩ := c
    obtain ⟨_, hlt, hwf⟩ := (Memory.wf_cons a' b' m).1 hm
    have ih := ih hwf
    rcases lt_trichotomy a a' with h | h | h
    · by_cases hb : b = Memory.unlisted
      · by_cases hx : x = a
        · have : x ≠ a' := by omega
          simp [Memory.write, Memory.read, h, hb, hx]
          intro h2; omega
        · simp [Memory.write, h, hb, hx]
      · by_cases hx : x = a
        · simp [Memory.write, Memory.read, h, hb, hx]
        · by_cases hx2 : x < a
          · have h3 : x < a' := by omega
            have h4 : x ≠ a' := by omega
            simp [Memory.write, Memory.read, h, hb, hx, hx2, h3, h4]
          · simp [Memory.write, Memory.read, h, hb, hx, hx2]
    · subst h
      by_cases hb : b = Memory.unlisted
      · by_cases hx : x = a
        · subst hx
          simp [Memory.write, hb, Memory.read_of_lt m x hlt]
        · by_cases hx2 : x < a
          · have : ∀ c ∈ m, x < c.1 := fun c hc => by have := hlt c hc; omega
            simp [Memory.write, Memory.read, hb, hx, hx2, Memory.read_of_lt m x this]
          · simp [Memory.write, Memory.read, hb, hx, hx2]
      · by_cases hx : x = a <;> simp [Memory.write, Memory.read, hb, hx]
    · have h1 : ¬ a < a' := by omega
      have h2 : a ≠ a' := by omega
      simp only [Memory.write, h1, h2, if_false, Memory.read]
      rcases lt_trichotomy x a' with h3 | h3 | h3
      · have : x ≠ a' := by omega
        have h4 : x ≠ a := by omega
        simp [this, h3, h4]
      · have h4 : a' ≠ a := by omega
        simp [h3, h4]
      · have h4 : x ≠ a' := by omega
        have h5 : ¬ x < a' := by omega
        simp [h4, h5, ih]

/-- What a write can list: the address written, or what was listed. -/
theorem Memory.mem_write (m : Memory) (a : Nat) (b : Byte) (c : Host.Cell) (h : c ∈ Memory.write m a b) :
    c = (a, b) ∧ b ≠ Memory.unlisted ∨ c ∈ m := by
  induction m with
  | nil =>
    by_cases hb : b = Memory.unlisted <;> simp_all [Memory.write]
  | cons d m ih =>
    obtain ⟨a', b'⟩ := d
    simp only [Memory.write] at h
    split at h
    · split at h
      · exact Or.inr h
      · rcases List.mem_cons.1 h with h | h
        · exact Or.inl ⟨h, by assumption⟩
        · exact Or.inr h
    · split at h
      · split at h
        · exact Or.inr (List.mem_cons_of_mem _ h)
        · rcases List.mem_cons.1 h with h | h
          · exact Or.inl ⟨h, by assumption⟩
          · exact Or.inr (List.mem_cons_of_mem _ h)
      · rcases List.mem_cons.1 h with h | h
        · exact Or.inr (by simp [h])
        · rcases ih h with h | h
          · exact Or.inl h
          · exact Or.inr (List.mem_cons_of_mem _ h)

/-- A write keeps the canonical form. -/
theorem Memory.wf_write (m : Memory) (hm : Memory.wf m = true) (a : Nat) (b : Byte) : Memory.wf (Memory.write m a b) = true := by
  induction m with
  | nil =>
    by_cases hb : b = Memory.unlisted <;> simp [Memory.write, Memory.wf, hb]
  | cons d m ih =>
    obtain ⟨a', b'⟩ := d
    obtain ⟨hb', hlt, hwf⟩ := (Memory.wf_cons a' b' m).1 hm
    simp only [Memory.write]
    split
    · rename_i h
      split
      · exact hm
      · rename_i hb
        refine (Memory.wf_cons _ _ _).2 ⟨hb, fun c hc => ?_, hm⟩
        rcases List.mem_cons.1 hc with rfl | hc
        · exact h
        · exact lt_trans h (hlt c hc)
    · split
      · rename_i h1 h
        subst h
        split
        · exact hwf
        · rename_i hb
          exact (Memory.wf_cons _ _ _).2 ⟨hb, hlt, hwf⟩
      · rename_i h1 h2
        refine (Memory.wf_cons _ _ _).2 ⟨hb', fun c hc => ?_, ih hwf⟩
        rcases Memory.mem_write m a b c hc with ⟨rfl, _⟩ | hc
        · simp only; omega
        · exact hlt c hc

/-- Storing bytes keeps the canonical form. -/
theorem Memory.wf_writeList (bs : List Byte) :
    ∀ (m : Memory) (a : Nat), Memory.wf m = true → Memory.wf (Memory.writeList m a bs) = true := by
  induction bs with
  | nil => intro m a h; exact h
  | cons b bs ih => intro m a h; exact ih _ _ (Memory.wf_write m h a b)

/-- Cutting a memory off keeps the canonical form. -/
theorem Memory.wf_below (m : Memory) (hm : Memory.wf m = true) (a : Nat) : Memory.wf (Memory.below m a) = true := by
  induction m with
  | nil => rfl
  | cons d m ih =>
    obtain ⟨a', b'⟩ := d
    obtain ⟨hb', hlt, hwf⟩ := (Memory.wf_cons a' b' m).1 hm
    have ih := ih hwf
    by_cases h : a' < a
    · have : Memory.below ((a', b') :: m) a = (a', b') :: Memory.below m a := by simp [Memory.below, h]
      rw [this]
      exact (Memory.wf_cons _ _ _).2 ⟨hb', fun c hc => hlt c (List.mem_filter.1 hc).1, ih⟩
    · have : Memory.below ((a', b') :: m) a = Memory.below m a := by simp [Memory.below, h]
      rw [this]; exact ih

/-- Reads of a memory that is cut off. -/
theorem Memory.read_below (m : Memory) (hm : Memory.wf m = true) (a x : Nat) :
    Memory.read (Memory.below m a) x = if x < a then Memory.read m x else Memory.unlisted := by
  induction m with
  | nil => simp [Memory.below, Memory.read]
  | cons d m ih =>
    obtain ⟨a', b'⟩ := d
    obtain ⟨_, hlt, hwf⟩ := (Memory.wf_cons a' b' m).1 hm
    have ih := ih hwf
    by_cases h : a' < a
    · have e : Memory.below ((a', b') :: m) a = (a', b') :: Memory.below m a := by simp [Memory.below, h]
      rw [e]
      simp only [Memory.read]
      by_cases h1 : x = a'
      · simp [h1, h]
      · by_cases h2 : x < a'
        · simp [h1, h2]
        · simp [h1, h2, ih]
    · have e : Memory.below ((a', b') :: m) a = Memory.below m a := by simp [Memory.below, h]
      rw [e, ih]
      by_cases h1 : x < a
      · have h2 : x ≠ a' := by omega
        have h3 : x < a' := by omega
        have : ∀ c ∈ m, x < c.1 := fun c hc => by have := hlt c hc; omega
        simp [h1, Memory.read, h2, h3, Memory.read_of_lt m x this]
      · simp [h1]

/-- What storing bytes can list: addresses of the stored range, or what was listed. -/
theorem Memory.mem_writeList (bs : List Byte) :
    ∀ (m : Memory) (a : Nat) (c : Host.Cell), c ∈ Memory.writeList m a bs → (a ≤ c.1 ∧ c.1 < a + bs.length) ∨ c ∈ m := by
  induction bs with
  | nil => intro m a c h; exact Or.inr h
  | cons b bs ih =>
    intro m a c h
    rcases ih _ _ c h with h | h
    · left; simp only [List.length_cons]; omega
    · rcases Memory.mem_write m a b c h with ⟨rfl, _⟩ | h
      · left; simp
      · exact Or.inr h

/-- Reads after storing bytes: the stored byte inside the range, the old byte outside it. -/
theorem Memory.read_writeList (bs : List Byte) :
    ∀ (m : Memory) (_ : Memory.wf m = true) (a x : Nat),
      Memory.read (Memory.writeList m a bs) x =
        if a ≤ x ∧ x < a + bs.length then bs.getD (x - a) 0 else Memory.read m x := by
  induction bs with
  | nil =>
    intro m _ a x
    have : ¬ (a ≤ x ∧ x < a + ([] : List Byte).length) := by simp
    rw [if_neg this]; rfl
  | cons b bs ih =>
    intro m hm a x
    rw [Memory.writeList, ih _ (Memory.wf_write m hm a b), Memory.read_write m hm]
    by_cases h : x = a
    · subst h
      have h1 : ¬ (x + 1 ≤ x ∧ x < x + 1 + bs.length) := by omega
      simp
    · by_cases h2 : a + 1 ≤ x ∧ x < a + 1 + bs.length
      · have h3 : a ≤ x ∧ x < a + (b :: bs).length := by simp only [List.length_cons]; omega
        obtain ⟨j, rfl⟩ : ∃ j, x = a + 1 + j := ⟨x - (a + 1), by omega⟩
        have e1 : a + 1 + j - (a + 1) = j := by omega
        have e2 : a + 1 + j - a = j + 1 := by omega
        simp only [if_pos h2, if_pos h3, e1, e2, List.getD_cons_succ]
      · have h3 : ¬ (a ≤ x ∧ x < a + (b :: bs).length) := by simp only [List.length_cons]; omega
        rw [if_neg h2, if_neg h3, if_neg h]

@[simp] theorem Memory.length_slice (m : Memory) (n : Nat) : ∀ a, (Memory.slice m a n).length = n := by
  induction n with
  | zero => intro a; rfl
  | succ n ih => intro a; simp [Memory.slice, ih]

/-- The bytes of a slice. -/
theorem Memory.getElem_slice (m : Memory) (n : Nat) :
    ∀ (a i : Nat) (h : i < (Memory.slice m a n).length), (Memory.slice m a n)[i] = Memory.read m (a + i) := by
  induction n with
  | zero => intro a i h; simp at h
  | succ n ih =>
    intro a i h
    cases i with
    | zero => simp [Memory.slice]
    | succ i =>
      simp only [Memory.slice, List.getElem_cons_succ]
      rw [ih]
      congr 1; omega

/-- The bytes of a slice, with the optional read of lists. -/
theorem Memory.getElem?_slice (m : Memory) (a n i : Nat) :
    (Memory.slice m a n)[i]? = if i < n then some (Memory.read m (a + i)) else none := by
  by_cases h : i < n
  · have h' : i < (Memory.slice m a n).length := by simpa using h
    rw [List.getElem?_eq_getElem h', Memory.getElem_slice]
    simp [h]
  · have h' : (Memory.slice m a n).length ≤ i := by simp; omega
    rw [List.getElem?_eq_none h']
    simp [h]

/-- A part of a slice is a slice. -/
theorem Memory.take_drop_slice (m : Memory) (a n i k : Nat) (h : i + k ≤ n) :
    ((Memory.slice m a n).drop i).take k = Memory.slice m (a + i) k := by
  apply List.ext_getElem?
  intro j
  rw [List.getElem?_take, List.getElem?_drop, Memory.getElem?_slice, Memory.getElem?_slice]
  by_cases hj : j < k
  · have : i + j < n := by omega
    simp [hj, this, Nat.add_assoc]
  · simp [hj]

/-- A read below BUF_LEN gives the stored byte. -/
theorem Lane.memRead_of_lt (l : Lane) (a : Nat) (h : a < l.bufLen) : l.memRead a = some (Memory.read l.buf a) := by
  simp [Lane.memRead, h]

/-- Reads below BUF_LEN give the stored bytes. -/
theorem Lane.memReadList_of_le (l : Lane) (n : Nat) :
    ∀ a, a + n ≤ l.bufLen → l.memReadList a n = some (Memory.slice l.buf a n) := by
  induction n with
  | zero => intro a _; rfl
  | succ n ih =>
    intro a h
    simp [Lane.memReadList, Lane.memRead_of_lt l a (by omega), ih (a + 1) (by omega), Memory.slice]

@[simp] theorem Lane.length_bytes (l : Lane) : l.bytes.length = l.bufLen := by simp [Lane.bytes]

/-- The bytes of the buffer, one by one. -/
theorem Lane.getD_bytes (l : Lane) (i : Nat) (h : i < l.bufLen) : l.bytes.getD i 0 = Memory.read l.buf i := by
  rw [Lane.bytes, List.getD, Memory.getElem?_slice, if_pos h]; simp

/-- The stored bytes after storing a list at their start. -/
theorem Memory.slice_writeList (m : Memory) (hm : Memory.wf m = true) (a : Nat) (bs : List Byte) :
    Memory.slice (Memory.writeList m a bs) a bs.length = bs := by
  apply List.ext_getElem?
  intro j
  rw [Memory.getElem?_slice, Memory.read_writeList bs m hm]
  by_cases hj : j < bs.length
  · simp [hj]
  · simp [hj]

/-- Slices depend on the bytes alone. -/
theorem Memory.slice_congr (m m' : Memory) (n : Nat) :
    ∀ a, (∀ x, a ≤ x → x < a + n → Memory.read m x = Memory.read m' x) → Memory.slice m a n = Memory.slice m' a n := by
  induction n with
  | zero => intro a _; rfl
  | succ n ih =>
    intro a h
    simp only [Memory.slice]
    rw [h a (by omega) (by omega), ih (a + 1) (fun x h1 h2 => h x (by omega) (by omega))]

/-- Adjacent slices. -/
theorem Memory.slice_add (m : Memory) (n k : Nat) :
    ∀ a, Memory.slice m a (n + k) = Memory.slice m a n ++ Memory.slice m (a + n) k := by
  induction n with
  | zero => intro a; simp [Memory.slice]
  | succ n ih =>
    intro a
    have : n + 1 + k = (n + k) + 1 := by omega
    rw [this, Memory.slice, Memory.slice, ih]
    have : a + 1 + n = a + (n + 1) := by omega
    simp [this]

/-- The buffers right after reset are in canonical form. -/
theorem State.reset_buffers_wf : ∀ m ∈ State.reset.buffers, Memory.wf m = true := by decide

end Sys2Proof.Machine
end

