-- ==== Sys2Proof/Laws/State.lean ====
section
/-!
SUPPORT. One lemma per field per update of an instance, a host and the machine, so that no proof unfolds a record update.
-/

namespace Sys2Proof.Machine

section accept

variable (d : Decoder) (o : Nat)

@[simp] theorem Decoder.accept_params : (d.accept o).params = d.params := rfl
@[simp] theorem Decoder.accept_ctrl : (d.accept o).ctrl = ctrlBusy := rfl
@[simp] theorem Decoder.accept_reqOffset : (d.accept o).reqOffset = o := rfl
@[simp] theorem Decoder.accept_respValid : (d.accept o).respValid = 0 := rfl
@[simp] theorem Decoder.accept_resp : (d.accept o).resp = Response.zero := rfl
@[simp] theorem Decoder.accept_bufLen : (d.accept o).bufLen = d.bufLen := rfl
@[simp] theorem Decoder.accept_bufId : (d.accept o).bufId = d.bufId := rfl
@[simp] theorem Decoder.accept_borrowed : (d.accept o).borrowed = d.borrowed := rfl
@[simp] theorem Decoder.accept_requester : (d.accept o).requester = d.requester := rfl

end accept

section resetRegs

variable (d : Decoder)

@[simp] theorem Decoder.resetRegs_params : d.resetRegs.params = d.params := rfl
@[simp] theorem Decoder.resetRegs_ctrl : d.resetRegs.ctrl = ctrlIdle := rfl
@[simp] theorem Decoder.resetRegs_reqOffset : d.resetRegs.reqOffset = 0 := rfl
@[simp] theorem Decoder.resetRegs_respValid : d.resetRegs.respValid = 0 := rfl
@[simp] theorem Decoder.resetRegs_resp : d.resetRegs.resp = Response.zero := rfl
@[simp] theorem Decoder.resetRegs_bufLen : d.resetRegs.bufLen = 0 := rfl
@[simp] theorem Decoder.resetRegs_bufId : d.resetRegs.bufId = d.bufId := rfl
@[simp] theorem Decoder.resetRegs_borrowed : d.resetRegs.borrowed = d.borrowed := rfl
@[simp] theorem Decoder.resetRegs_requester : d.resetRegs.requester = d.requester := rfl

end resetRegs

section complete

variable (d : Decoder) (r : Response)

@[simp] theorem Decoder.complete_params : (d.complete r).params = d.params := rfl
@[simp] theorem Decoder.complete_ctrl : (d.complete r).ctrl = ctrlDone := rfl
@[simp] theorem Decoder.complete_reqOffset : (d.complete r).reqOffset = d.reqOffset := rfl
@[simp] theorem Decoder.complete_respValid : (d.complete r).respValid = 1 := rfl
@[simp] theorem Decoder.complete_resp : (d.complete r).resp = r := rfl
@[simp] theorem Decoder.complete_bufLen : (d.complete r).bufLen = d.bufLen := rfl
@[simp] theorem Decoder.complete_bufId : (d.complete r).bufId = d.bufId := rfl
@[simp] theorem Decoder.complete_borrowed : (d.complete r).borrowed = d.lend r := rfl
@[simp] theorem Decoder.complete_requester : (d.complete r).requester = d.requester := rfl

end complete

section resized

variable (d : Decoder) (b n : Nat)

@[simp] theorem Decoder.resized_params : (d.resized b n).params = d.params := by unfold Decoder.resized; split <;> rfl
@[simp] theorem Decoder.resized_ctrl : (d.resized b n).ctrl = d.ctrl := by unfold Decoder.resized; split <;> rfl
@[simp] theorem Decoder.resized_reqOffset : (d.resized b n).reqOffset = d.reqOffset := by unfold Decoder.resized; split <;> rfl
@[simp] theorem Decoder.resized_respValid : (d.resized b n).respValid = d.respValid := by unfold Decoder.resized; split <;> rfl
@[simp] theorem Decoder.resized_resp : (d.resized b n).resp = d.resp := by unfold Decoder.resized; split <;> rfl
@[simp] theorem Decoder.resized_bufId : (d.resized b n).bufId = d.bufId := by unfold Decoder.resized; split <;> rfl
@[simp] theorem Decoder.resized_borrowed : (d.resized b n).borrowed = d.borrowed := by unfold Decoder.resized; split <;> rfl
@[simp] theorem Decoder.resized_requester : (d.resized b n).requester = d.requester := by unfold Decoder.resized; split <;> rfl
theorem Decoder.resized_bufLen : (d.resized b n).bufLen = if d.bufId = b then n else d.bufLen := by unfold Decoder.resized; split <;> rfl
@[simp] theorem Decoder.resized_self_bufLen : (d.resized d.bufId n).bufLen = n := by simp [Decoder.resized]

end resized

section waitedFor

variable (d : Decoder) (no : Nat)

@[simp] theorem Decoder.waitedFor_params : (d.waitedFor no).params = d.params := by unfold Decoder.waitedFor; split <;> rfl
@[simp] theorem Decoder.waitedFor_ctrl : (d.waitedFor no).ctrl = d.ctrl := by unfold Decoder.waitedFor; split <;> rfl
@[simp] theorem Decoder.waitedFor_reqOffset : (d.waitedFor no).reqOffset = d.reqOffset := by unfold Decoder.waitedFor; split <;> rfl
@[simp] theorem Decoder.waitedFor_respValid : (d.waitedFor no).respValid = d.respValid := by unfold Decoder.waitedFor; split <;> rfl
@[simp] theorem Decoder.waitedFor_resp : (d.waitedFor no).resp = d.resp := by unfold Decoder.waitedFor; split <;> rfl
@[simp] theorem Decoder.waitedFor_bufLen : (d.waitedFor no).bufLen = d.bufLen := by unfold Decoder.waitedFor; split <;> rfl
@[simp] theorem Decoder.waitedFor_bufId : (d.waitedFor no).bufId = d.bufId := by unfold Decoder.waitedFor; split <;> rfl
@[simp] theorem Decoder.waitedFor_borrowed : (d.waitedFor no).borrowed = d.borrowed := by unfold Decoder.waitedFor; split <;> rfl

end waitedFor

section hosts

variable (h : HostAgent) (n k : Nat)

@[simp] theorem HostAgent.nextLine_program : h.nextLine.program = h.program := rfl
@[simp] theorem HostAgent.nextLine_line : h.nextLine.line = h.line + 1 := rfl
@[simp] theorem HostAgent.nextLine_cur : h.nextLine.cur = h.cur := rfl
@[simp] theorem HostAgent.nextLine_awaiting : h.nextLine.awaiting = false := rfl
@[simp] theorem HostAgent.nextLine_run : h.nextLine.run = h.run := rfl
@[simp] theorem HostAgent.nextLine_seen : h.nextLine.seen = h.seen := rfl
@[simp] theorem HostAgent.nextLine_delivered : h.nextLine.delivered = h.delivered := rfl
@[simp] theorem HostAgent.nextLine_used : h.nextLine.used = h.used := rfl
@[simp] theorem HostAgent.nextLine_structural : h.nextLine.structural = h.structural := rfl
@[simp] theorem HostAgent.goto_program : (h.goto n).program = h.program := rfl
@[simp] theorem HostAgent.goto_line : (h.goto n).line = n := rfl
@[simp] theorem HostAgent.goto_cur : (h.goto n).cur = h.cur := rfl
@[simp] theorem HostAgent.goto_awaiting : (h.goto n).awaiting = false := rfl
@[simp] theorem HostAgent.goto_run : (h.goto n).run = h.run := rfl
@[simp] theorem HostAgent.goto_seen : (h.goto n).seen = h.seen := rfl
@[simp] theorem HostAgent.goto_delivered : (h.goto n).delivered = h.delivered := rfl
@[simp] theorem HostAgent.goto_used : (h.goto n).used = h.used := rfl
@[simp] theorem HostAgent.goto_structural : (h.goto n).structural = h.structural := rfl
@[simp] theorem HostAgent.abort_program : h.abort.program = h.program := rfl
@[simp] theorem HostAgent.abort_line : h.abort.line = h.line := rfl
@[simp] theorem HostAgent.abort_cur : h.abort.cur = h.cur := rfl
@[simp] theorem HostAgent.abort_awaiting : h.abort.awaiting = h.awaiting := rfl
@[simp] theorem HostAgent.abort_run : h.abort.run = .aborted h.structural := rfl
@[simp] theorem HostAgent.abort_seen : h.abort.seen = h.seen := rfl
@[simp] theorem HostAgent.abort_delivered : h.abort.delivered = h.delivered := rfl
@[simp] theorem HostAgent.abort_used : h.abort.used = h.used := rfl
@[simp] theorem HostAgent.abort_structural : h.abort.structural = h.structural := rfl
@[simp] theorem HostAgent.halt_program : h.halt.program = h.program := rfl
@[simp] theorem HostAgent.halt_line : h.halt.line = h.line := rfl
@[simp] theorem HostAgent.halt_cur : h.halt.cur = h.cur := rfl
@[simp] theorem HostAgent.halt_awaiting : h.halt.awaiting = h.awaiting := rfl
@[simp] theorem HostAgent.halt_run : h.halt.run = .halted := rfl
@[simp] theorem HostAgent.halt_seen : h.halt.seen = h.seen := rfl
@[simp] theorem HostAgent.halt_delivered : h.halt.delivered = h.delivered := rfl
@[simp] theorem HostAgent.halt_used : h.halt.used = h.used := rfl
@[simp] theorem HostAgent.halt_structural : h.halt.structural = h.structural := rfl
@[simp] theorem HostAgent.start_program : h.start.program = h.program := rfl
@[simp] theorem HostAgent.start_line : h.start.line = h.line + 1 := rfl
@[simp] theorem HostAgent.start_cur : h.start.cur = 0 := rfl
@[simp] theorem HostAgent.start_awaiting : h.start.awaiting = false := rfl
@[simp] theorem HostAgent.start_run : h.start.run = h.run := rfl
@[simp] theorem HostAgent.start_seen : h.start.seen = h.seen := rfl
@[simp] theorem HostAgent.start_delivered : h.start.delivered = h.delivered := rfl
@[simp] theorem HostAgent.start_used : h.start.used = h.used := rfl
@[simp] theorem HostAgent.start_structural : h.start.structural = false := rfl
@[simp] theorem HostAgent.rebased_program : (h.rebased k).program = h.program := rfl
@[simp] theorem HostAgent.rebased_line : (h.rebased k).line = h.line + 1 := rfl
@[simp] theorem HostAgent.rebased_cur : (h.rebased k).cur = h.cur - k := rfl
@[simp] theorem HostAgent.rebased_awaiting : (h.rebased k).awaiting = false := rfl
@[simp] theorem HostAgent.rebased_run : (h.rebased k).run = h.run := rfl
@[simp] theorem HostAgent.rebased_seen : (h.rebased k).seen = h.seen := rfl
@[simp] theorem HostAgent.rebased_delivered : (h.rebased k).delivered = h.delivered := rfl
@[simp] theorem HostAgent.rebased_used : (h.rebased k).used = h.used := rfl
@[simp] theorem HostAgent.rebased_structural : (h.rebased k).structural = h.structural := rfl
@[simp] theorem HostAgent.uses_program : (h.uses k).program = h.program := by unfold HostAgent.uses; split <;> rfl
@[simp] theorem HostAgent.uses_line : (h.uses k).line = h.line := by unfold HostAgent.uses; split <;> rfl
@[simp] theorem HostAgent.uses_cur : (h.uses k).cur = h.cur := by unfold HostAgent.uses; split <;> rfl
@[simp] theorem HostAgent.uses_awaiting : (h.uses k).awaiting = h.awaiting := by unfold HostAgent.uses; split <;> rfl
@[simp] theorem HostAgent.uses_run : (h.uses k).run = h.run := by unfold HostAgent.uses; split <;> rfl
@[simp] theorem HostAgent.uses_seen : (h.uses k).seen = h.seen := by unfold HostAgent.uses; split <;> rfl
@[simp] theorem HostAgent.uses_delivered : (h.uses k).delivered = h.delivered := by unfold HostAgent.uses; split <;> rfl
@[simp] theorem HostAgent.uses_structural : (h.uses k).structural = h.structural := by unfold HostAgent.uses; split <;> rfl

/-- Nothing of a host but the instances it has used changes when it uses one more. -/
theorem HostAgent.uses_eq : h.uses k = { h with used := (h.uses k).used } := by unfold HostAgent.uses; split <;> rfl

/-- The instances that a host has used, after one more action (R139). -/
theorem HostAgent.mem_uses : n ∈ (h.uses k).used ↔ n ∈ h.used ∨ n = k := by
  unfold HostAgent.uses
  split
  · constructor
    · exact Or.inl
    · rintro (h | rfl) <;> assumption
  · simp

end hosts

section responses

variable (st : Status) (x : Byte) (k : BitVec 33) (o : Nat) (t : FrameType) (ch : Channel) (len : Length) (p : List Byte)

@[simp] theorem Response.error_status : (Response.error st x k).status = st.code := rfl
@[simp] theorem Response.error_type : (Response.error st x k).type = 0 := rfl
@[simp] theorem Response.error_dispatch : (Response.error st x k).dispatch = 0 := rfl
@[simp] theorem Response.error_channel : (Response.error st x k).channel = 0 := rfl
@[simp] theorem Response.error_length : (Response.error st x k).length = 0 := rfl
@[simp] theorem Response.error_payloadStart : (Response.error st x k).payloadStart = 0 := rfl
@[simp] theorem Response.error_consumed : (Response.error st x k).consumed = 0 := rfl
@[simp] theorem Response.error_errByte : (Response.error st x k).errByte = x := rfl
@[simp] theorem Response.error_need : (Response.error st x k).need = k := rfl
@[simp] theorem Response.error_payload : (Response.error st x k).payload = [] := rfl
@[simp] theorem Response.success_status : (Response.success o t ch len p).status = Status.ok.code := rfl
@[simp] theorem Response.success_type : (Response.success o t ch len p).type = t.tag := rfl
@[simp] theorem Response.success_dispatch : (Response.success o t ch len p).dispatch = t.onehot := rfl
@[simp] theorem Response.success_channel : (Response.success o t ch len p).channel = ch := rfl
@[simp] theorem Response.success_length : (Response.success o t ch len p).length = len := rfl
@[simp] theorem Response.success_payloadStart : (Response.success o t ch len p).payloadStart = o + 7 := rfl
@[simp] theorem Response.success_consumed : (Response.success o t ch len p).consumed = frameLength len := rfl
@[simp] theorem Response.success_errByte : (Response.success o t ch len p).errByte = 0 := rfl
@[simp] theorem Response.success_need : (Response.success o t ch len p).need = 0 := rfl
@[simp] theorem Response.success_payload : (Response.success o t ch len p).payload = p := rfl

end responses

section machine

variable (s : State) (d : Decoder) (r : Response) (no : Nat) (h : HostAgent) (m : Memory) (n : Nat)

@[simp] theorem State.onLane_next : s.onLane (.next d) = .next { s with dec := d } := rfl
@[simp] theorem State.onLane_fault (x : Fault) : s.onLane (.fault x) = .fault x := rfl
@[simp] theorem State.onLane_refused (x : Refusal) : s.onLane (.refused x) = .refused x := rfl
@[simp] theorem noted_next : noted (.next s) = .next s.noteError := rfl
@[simp] theorem noted_fault (x : Fault) : noted (.fault x) = .fault x := rfl
@[simp] theorem noted_refused (x : Refusal) : noted (.refused x) = .refused x := rfl
@[simp] theorem withHost_next : withHost h (.next s) = .next (h, s) := rfl
@[simp] theorem withHost_fault (x : Fault) : withHost h (.fault x) = .fault x := rfl
@[simp] theorem withHost_refused (x : Refusal) : withHost h (.refused x) = .refused x := rfl
@[simp] theorem putBack_next : putBack no (.next (h, s)) = .next (s.setHost no h) := rfl
@[simp] theorem putBack_fault (x : Fault) : putBack no (.fault x) = .fault x := rfl
@[simp] theorem putBack_refused (x : Refusal) : putBack no (.refused x) = .refused x := rfl
@[simp] theorem State.lane_toDecoder : s.lane.toDecoder = s.dec := rfl
@[simp] theorem State.lane_buf : s.lane.buf = s.buffer s.dec.bufId := rfl
@[simp] theorem State.completed_left : (s.completed r).left = s.left := rfl
@[simp] theorem State.completed_dec : (s.completed r).dec = s.dec.complete r := rfl
@[simp] theorem State.completed_right : (s.completed r).right = s.right := rfl
@[simp] theorem State.completed_buffers : (s.completed r).buffers = s.buffers := rfl
@[simp] theorem State.completed_hosts : (s.completed r).hosts = s.hosts := rfl
@[simp] theorem State.completed_turns : (s.completed r).turns = s.turns := rfl
@[simp] theorem State.completed_draws : (s.completed r).draws = s.draws := rfl
@[simp] theorem State.setHost_left : (s.setHost no h).left = s.left := rfl
@[simp] theorem State.setHost_dec : (s.setHost no h).dec = s.dec := rfl
@[simp] theorem State.setHost_right : (s.setHost no h).right = s.right := rfl
@[simp] theorem State.setHost_buffers : (s.setHost no h).buffers = s.buffers := rfl
@[simp] theorem State.setHost_hosts : (s.setHost no h).hosts = s.hosts.set no h := rfl
@[simp] theorem State.setHost_turns : (s.setHost no h).turns = s.turns := rfl
@[simp] theorem State.setHost_draws : (s.setHost no h).draws = s.draws := rfl
@[simp] theorem State.usedTurn_left : s.usedTurn.left = s.left := rfl
@[simp] theorem State.usedTurn_dec : s.usedTurn.dec = s.dec := rfl
@[simp] theorem State.usedTurn_right : s.usedTurn.right = s.right := rfl
@[simp] theorem State.usedTurn_buffers : s.usedTurn.buffers = s.buffers := rfl
@[simp] theorem State.usedTurn_hosts : s.usedTurn.hosts = s.hosts := rfl
@[simp] theorem State.usedTurn_turns : s.usedTurn.turns = s.turns.tail := rfl
@[simp] theorem State.usedTurn_draws : s.usedTurn.draws = s.draws := rfl
@[simp] theorem State.replaceBuffer_left : (s.replaceBuffer m n).left = s.left.map (fun d => d.resized s.dec.bufId n) := rfl
@[simp] theorem State.replaceBuffer_dec : (s.replaceBuffer m n).dec = s.dec.resized s.dec.bufId n := rfl
@[simp] theorem State.replaceBuffer_right : (s.replaceBuffer m n).right = s.right.map (fun d => d.resized s.dec.bufId n) := rfl
@[simp] theorem State.replaceBuffer_buffers : (s.replaceBuffer m n).buffers = s.buffers.set s.dec.bufId m := rfl
@[simp] theorem State.replaceBuffer_hosts : (s.replaceBuffer m n).hosts = s.hosts := rfl
@[simp] theorem State.replaceBuffer_turns : (s.replaceBuffer m n).turns = s.turns := rfl
@[simp] theorem State.replaceBuffer_draws : (s.replaceBuffer m n).draws = s.draws := rfl
@[simp] theorem State.noteError_left : s.noteError.left = s.left := by unfold State.noteError; split; rfl; split <;> rfl
@[simp] theorem State.noteError_dec : s.noteError.dec = s.dec := by unfold State.noteError; split; rfl; split <;> rfl
@[simp] theorem State.noteError_right : s.noteError.right = s.right := by unfold State.noteError; split; rfl; split <;> rfl
@[simp] theorem State.noteError_buffers : s.noteError.buffers = s.buffers := by unfold State.noteError; split; rfl; split <;> rfl
@[simp] theorem State.noteError_turns : s.noteError.turns = s.turns := by unfold State.noteError; split; rfl; split <;> rfl
@[simp] theorem State.noteError_draws : s.noteError.draws = s.draws := by unfold State.noteError; split; rfl; split <;> rfl
@[simp] theorem State.completed_focused : (s.completed r).focused = s.focused := rfl
@[simp] theorem State.setHost_focused : (s.setHost no h).focused = s.focused := rfl
@[simp] theorem State.usedTurn_focused : s.usedTurn.focused = s.focused := rfl
@[simp] theorem State.setHost_decs : (s.setHost no h).decs = s.decs := rfl
@[simp] theorem State.usedTurn_decs : s.usedTurn.decs = s.decs := rfl
@[simp] theorem State.noteError_decs : s.noteError.decs = s.decs := by simp [State.decs]
@[simp] theorem State.noteError_focused : s.noteError.focused = s.focused := by simp [State.focused]
@[simp] theorem State.noteError_length_hosts : s.noteError.hosts.length = s.hosts.length := by
  unfold State.noteError; split; rfl; split <;> simp
@[simp] theorem State.replaceBuffer_decs : (s.replaceBuffer m n).decs = s.decs.map (fun d => d.resized s.dec.bufId n) := by
  simp [State.decs]
@[simp] theorem State.replaceBuffer_focused : (s.replaceBuffer m n).focused = s.focused := by simp [State.focused]

end machine

end Sys2Proof.Machine
end

