-- ==== Sys2Proof/Laws/Ops.lean ====
section
/-!
SUPPORT. What each shared operation can do, said once: Complete with a response, the known and the unknown frame, the fetch of a header, the focus and the turn.
-/

namespace Sys2Proof.Machine

theorem ctrlBusy_ne_reserved : ctrlBusy ≠ ctrlReserved := by decide

/-- Complete answers a next state exactly from BUSY, and then writes the response. -/
theorem Lane.finish_eq_next (l : Lane) (d : Decoder) (r : Response) : l.finish r = .next d ↔ l.ctrl = ctrlBusy ∧ d = l.complete r := by
  unfold Lane.finish
  split
  · rename_i h; simp [h, eq_comm]
  · rename_i h
    split <;> simp [h]

/-- Complete from BUSY. -/
theorem Lane.finish_of_busy (l : Lane) (r : Response) (h : l.ctrl = ctrlBusy) : l.finish r = .next (l.complete r) :=
  (Lane.finish_eq_next l _ r).2 ⟨h, rfl⟩

/-- The error response from BUSY. -/
theorem Lane.raise_of_busy (l : Lane) (st : Status) (x : Byte) (k : BitVec 33) (h : l.ctrl = ctrlBusy) :
    l.raise st x k = .next (l.complete (Response.error st x k)) :=
  Lane.finish_of_busy l _ h

/-- The response a known frame gets, from the lane's operands (R92 to R100). -/
def knownResponse (l : Lane) (t : FrameType) (ch : Channel) (len : Length) : Response :=
  if l.params.frameMax.toNat < len.toNat then Response.error .frameTooLarge 0x00 0
  else if l.avail - 7 < len.toNat + 1 then Response.error .incomplete 0x00 (needOf len)
  else if Memory.read l.buf (l.endIndex len) ≠ frameEnd then Response.error .invalidEnd (Memory.read l.buf (l.endIndex len)) 0
  else Response.success l.reqOffset t ch len (Memory.slice l.buf l.payloadIndex len.toNat)

/-- A known frame completes with its response: no check reads outside the buffer. -/
theorem Lane.knownFrame_eq (l : Lane) (t : FrameType) (ch : Channel) (len : Length) :
    l.knownFrame t ch len = l.finish (knownResponse l t ch len) := by
  unfold Lane.knownFrame knownResponse
  split
  · rfl
  · split
    · rfl
    · rename_i h
      have h1 : l.endIndex len < l.bufLen := by simp only [Lane.endIndex, Lane.avail] at *; omega
      have h2 : l.payloadIndex + len.toNat ≤ l.bufLen := by simp only [Lane.payloadIndex, Lane.avail] at *; omega
      simp only [Lane.closeFrame, Lane.memRead_of_lt l _ h1, Lane.memReadList_of_le l _ _ h2]
      split <;> rfl

/-- The response that an instruction gives at a lane. -/
def instrResponse (l : Lane) : Instr → Response
  | .method ch len => knownResponse l .method ch len
  | .header ch len => knownResponse l .header ch len
  | .body ch len => knownResponse l .body ch len
  | .heartbeat ch len => knownResponse l .heartbeat ch len
  | .unknown00 _ _ => Response.error .unknownType 0x00 0
  | .unknown04 tag _ _ => Response.error .unknownType tag 0
  | .unknown09 _ _ => Response.error .unknownType 0x09 0
  | .unknown0A tag _ _ => Response.error .unknownType tag 0
  | .unknown0C tag _ _ => Response.error .unknownType tag 0
  | .unknown10 tag _ _ => Response.error .unknownType tag 0
  | .unknown20 tag _ _ => Response.error .unknownType tag 0
  | .unknown40 tag _ _ => Response.error .unknownType tag 0
  | .unknown80 tag _ _ => Response.error .unknownType tag 0

/-- Every instruction is Complete with its response. -/
theorem exec_eq (i : Instr) (s : State) : exec i s = s.onLane (s.lane.finish (instrResponse s.lane i)) := by
  cases i <;>
    simp only [exec, execMethod, execHeader, execBody, execHeartbeat, execUnknown00, execUnknown04, execUnknown09, execUnknown0A,
      execUnknown0C, execUnknown10, execUnknown20, execUnknown40, execUnknown80, Lane.knownFrame_eq, Lane.unknownFrame, Lane.raise,
      instrResponse]

/-- What an instruction can do: from BUSY it writes one response, and nothing else answers a next state. -/
theorem exec_eq_next (i : Instr) (s t : State) :
    exec i s = .next t ↔ s.dec.ctrl = ctrlBusy ∧ t = s.completed (instrResponse s.lane i) := by
  rw [exec_eq]
  by_cases h : s.dec.ctrl = ctrlBusy
  · rw [Lane.finish_of_busy s.lane _ h]
    simp [h, State.completed, eq_comm]
  · unfold Lane.finish
    split
    · contradiction
    · split <;> simp [h]

/-- Every tag is matched by one of the decoder's tests (R14). -/
theorem opcode_rows_cover : ∀ t : Byte,
    t = 0x01#8 ∨ t = 0x02#8 ∨ t = 0x03#8 ∨ t = 0x08#8 ∨ t = 0x00#8 ∨ tagMatches (0x04#8, 0xFC#8) t = true ∨ t = 0x09#8 ∨
      tagMatches (0x0A#8, 0xFE#8) t = true ∨ tagMatches (0x0C#8, 0xFC#8) t = true ∨ tagMatches (0x10#8, 0xF0#8) t = true ∨
      tagMatches (0x20#8, 0xE0#8) t = true ∨ tagMatches (0x40#8, 0xC0#8) t = true ∨ tagMatches (0x80#8, 0x80#8) t = true := by
  decide

/-- A test of the decoder: both branches decode. -/
theorem exists_ok_of_ite {c : Prop} [Decidable c] {x y : Except DecodeError Instr} {P : Instr → Prop}
    (hx : c → ∃ i, x = .ok i ∧ P i) (hy : ¬ c → ∃ i, y = .ok i ∧ P i) : ∃ i, (if c then x else y) = .ok i ∧ P i := by
  by_cases h : c
  · simpa [h] using hx h
  · simpa [h] using hy h

/-- The shape of every decode of a full header. -/
theorem decodeTag_ok (t : Byte) (ch : Channel) (len : Length) :
    ∃ i : Instr, decodeTag t ch len = .ok i ∧ i.tag = t ∧ i.channel = ch ∧ i.length = len ∧ i.wellFormed = true := by
  unfold decodeTag
  refine exists_ok_of_ite (fun h => ⟨_, rfl, h.symm, rfl, rfl, rfl⟩) fun h1 => ?_
  refine exists_ok_of_ite (fun h => ⟨_, rfl, h.symm, rfl, rfl, rfl⟩) fun h2 => ?_
  refine exists_ok_of_ite (fun h => ⟨_, rfl, h.symm, rfl, rfl, rfl⟩) fun h3 => ?_
  refine exists_ok_of_ite (fun h => ⟨_, rfl, h.symm, rfl, rfl, rfl⟩) fun h4 => ?_
  refine exists_ok_of_ite (fun h => ⟨_, rfl, h.symm, rfl, rfl, rfl⟩) fun h5 => ?_
  refine exists_ok_of_ite (fun h => ⟨_, rfl, rfl, rfl, rfl, h⟩) fun h6 => ?_
  refine exists_ok_of_ite (fun h => ⟨_, rfl, h.symm, rfl, rfl, rfl⟩) fun h7 => ?_
  refine exists_ok_of_ite (fun h => ⟨_, rfl, rfl, rfl, rfl, h⟩) fun h8 => ?_
  refine exists_ok_of_ite (fun h => ⟨_, rfl, rfl, rfl, rfl, h⟩) fun h9 => ?_
  refine exists_ok_of_ite (fun h => ⟨_, rfl, rfl, rfl, rfl, h⟩) fun h10 => ?_
  refine exists_ok_of_ite (fun h => ⟨_, rfl, rfl, rfl, rfl, h⟩) fun h11 => ?_
  refine exists_ok_of_ite (fun h => ⟨_, rfl, rfl, rfl, rfl, h⟩) fun h12 => ?_
  refine exists_ok_of_ite (fun h => ⟨_, rfl, rfl, rfl, rfl, h⟩) fun h13 => ?_
  rcases opcode_rows_cover t with h | h | h | h | h | h | h | h | h | h | h | h | h <;> exact absurd h ‹_›

/-- The header read of a lane that has 7 bytes available: an instruction with the tag, channel and length of R90. -/
theorem Lane.fetch_instr (l : Lane) (h : l.reqOffset + 7 ≤ l.bufLen) :
    ∃ i : Instr, l.fetch = .instr i ∧ i.wellFormed = true ∧ i.tag = Memory.read l.buf l.reqOffset ∧
      i.channel = be16 (Memory.read l.buf (l.reqOffset + 1)) (Memory.read l.buf (l.reqOffset + 2)) ∧
      i.length = be32 (Memory.read l.buf (l.reqOffset + 3)) (Memory.read l.buf (l.reqOffset + 4))
        (Memory.read l.buf (l.reqOffset + 5)) (Memory.read l.buf (l.reqOffset + 6)) := by
  have h1 : ¬ l.bufLen < l.reqOffset := by omega
  have h2 : ¬ l.avail < 7 := by simp only [Lane.avail]; omega
  obtain ⟨i, hi, ht, hc, hl, hw⟩ := decodeTag_ok (Memory.read l.buf l.reqOffset)
    (be16 (Memory.read l.buf (l.reqOffset + 1)) (Memory.read l.buf (l.reqOffset + 2)))
    (be32 (Memory.read l.buf (l.reqOffset + 3)) (Memory.read l.buf (l.reqOffset + 4))
        (Memory.read l.buf (l.reqOffset + 5)) (Memory.read l.buf (l.reqOffset + 6)))
  refine ⟨i, ?_, hw, ht, hc, hl⟩
  simp only [Lane.fetch, h1, h2, if_false, Lane.memReadList_of_le l 7 _ h, Memory.slice, decode, Nat.add_assoc, Nat.reduceAdd,
    hi, Except.map]

/-- What a fetch can give: check 0, check 1, or the header's instruction. -/
theorem Lane.fetch_cases (l : Lane) :
    (l.bufLen < l.reqOffset ∧ l.fetch = .raise .offsetOutOfRange 0x00 0) ∨
      (l.reqOffset ≤ l.bufLen ∧ l.avail < 7 ∧ l.fetch = .raise .incomplete 0x00 7) ∨
      (l.reqOffset + 7 ≤ l.bufLen ∧ ∃ i : Instr, l.fetch = .instr i ∧ i.wellFormed = true ∧ i.tag = Memory.read l.buf l.reqOffset ∧
        i.channel = be16 (Memory.read l.buf (l.reqOffset + 1)) (Memory.read l.buf (l.reqOffset + 2)) ∧
        i.length = be32 (Memory.read l.buf (l.reqOffset + 3)) (Memory.read l.buf (l.reqOffset + 4))
          (Memory.read l.buf (l.reqOffset + 5)) (Memory.read l.buf (l.reqOffset + 6))) := by
  by_cases h1 : l.bufLen < l.reqOffset
  · left; exact ⟨h1, by simp [Lane.fetch, h1]⟩
  · right
    by_cases h2 : l.avail < 7
    · left; exact ⟨by omega, h2, by simp [Lane.fetch, h1, h2]⟩
    · right
      have : l.reqOffset + 7 ≤ l.bufLen := by simp only [Lane.avail] at h2; omega
      exact ⟨this, l.fetch_instr this⟩

/-- The response that a lane's Complete gives (R86). -/
def laneResponse (l : Lane) : Response :=
  match l.fetch with
  | .raise st x k => Response.error st x k
  | .instr i => instrResponse l i
  | .outside => Response.zero

/-- What the instance's turn does: Complete from BUSY, nothing from IDLE and DONE, a fault from the reserved state. -/
theorem decoderTurn_of_busy (s : State) (h : s.dec.ctrl = ctrlBusy) :
    decoderTurn s = .next (s.completed (laneResponse s.lane)).noteError := by
  have h' : s.dec.ctrl ≠ ctrlReserved := by rw [h]; decide
  have hl : s.lane.ctrl = ctrlBusy := h
  unfold decoderTurn completeStep laneResponse
  rw [if_neg h', if_pos h]
  rcases s.lane.fetch_cases with ⟨_, e⟩ | ⟨_, _, e⟩ | ⟨_, i, e, _⟩
  · simp only [e, Lane.raise_of_busy _ _ _ _ hl, State.onLane_next, noted_next]; rfl
  · simp only [e, Lane.raise_of_busy _ _ _ _ hl, State.onLane_next, noted_next]; rfl
  · simp only [e]
    rw [(exec_eq_next i s _).2 ⟨h, rfl⟩, noted_next]

theorem decoderTurn_of_not_busy (s : State) (h : s.dec.ctrl ≠ ctrlBusy) (h' : s.dec.ctrl ≠ ctrlReserved) : decoderTurn s = .next s := by
  simp [decoderTurn, h, h']

theorem decoderTurn_of_reserved (s : State) (h : s.dec.ctrl = ctrlReserved) : decoderTurn s = .fault .reservedCtrlState := by
  simp [decoderTurn, h]

/-- A lane's response does not depend on the number of its buffer. -/
theorem laneResponse_alone (l : Lane) : laneResponse l.alone.lane = laneResponse l := rfl

/-- The response of a lane's own step. -/
theorem completeResponse_of_busy (l : Lane) (h : l.ctrl = ctrlBusy) : completeResponse l = some (laneResponse l) := by
  have e : step l.alone = decoderTurn { l.alone with turns := [] } := rfl
  have hb : ({ l.alone with turns := [] } : State).dec.ctrl = ctrlBusy := h
  simp only [completeResponse, h, if_true, e, decoderTurn_of_busy _ hb, State.noteError_dec, State.completed_dec, Decoder.complete_resp]
  rfl

/-- The need of check 4 is exact: 33 bits hold it (R12, R37). -/
theorem needOf_toNat (len : Length) : (needOf len).toNat = 7 + len.toNat + 1 := by
  have := len.isLt
  simp only [needOf, frameLength, BitVec.toNat_ofNat]
  omega

/-- A known frame type's instruction gives the known frame's response. -/
theorem instrResponse_instr (l : Lane) (t : FrameType) (ch : Channel) (len : Length) :
    instrResponse l (t.instr ch len) = knownResponse l t ch len := by
  cases t <;> rfl

/-- The response of a known frame whose status is OK is the success response, and every check has passed. -/
theorem knownResponse_ok (l : Lane) (t : FrameType) (ch : Channel) (len : Length)
    (h : (knownResponse l t ch len).status = Status.ok.code) :
    len.toNat ≤ l.params.frameMax.toNat ∧ l.reqOffset + 7 + len.toNat + 1 ≤ l.bufLen ∧
      Memory.read l.buf (l.reqOffset + 7 + len.toNat) = 0xCE ∧
      knownResponse l t ch len = Response.success l.reqOffset t ch len (Memory.slice l.buf (l.reqOffset + 7) len.toNat) := by
  unfold knownResponse at h ⊢
  split at h
  · exact absurd h (by simp only [Response.error_status]; decide)
  split at h
  · exact absurd h (by simp only [Response.error_status]; decide)
  split at h
  · exact absurd h (by simp only [Response.error_status]; decide)
  rename_i h1 h2 h3
  refine ⟨by omega, by simp only [Lane.avail] at h2; omega, not_not.1 h3, ?_⟩
  rw [if_neg h1, if_neg h2, if_neg h3]
  rfl

/-- An instruction whose response is OK is a known frame that passes every check. -/
theorem instrResponse_ok (l : Lane) (i : Instr) (h : (instrResponse l i).status = Status.ok.code) :
    ∃ t ch len, i = FrameType.instr t ch len ∧ len.toNat ≤ l.params.frameMax.toNat ∧
      l.reqOffset + 7 + len.toNat + 1 ≤ l.bufLen ∧ Memory.read l.buf (l.reqOffset + 7 + len.toNat) = 0xCE ∧
      instrResponse l i = Response.success l.reqOffset t ch len (Memory.slice l.buf (l.reqOffset + 7) len.toNat) := by
  cases i
  case method ch len => exact ⟨.method, ch, len, rfl, knownResponse_ok l .method ch len h⟩
  case header ch len => exact ⟨.header, ch, len, rfl, knownResponse_ok l .header ch len h⟩
  case body ch len => exact ⟨.body, ch, len, rfl, knownResponse_ok l .body ch len h⟩
  case heartbeat ch len => exact ⟨.heartbeat, ch, len, rfl, knownResponse_ok l .heartbeat ch len h⟩
  all_goals exact absurd h (by simp only [instrResponse, Response.error_status]; decide)

/-- A number up to BUF_CAPACITY fits ADDR_WIDTH bits (R7, D13). -/
theorem Params.lt_addrWidth (p : Params) (n : Nat) (h : n ≤ p.bufCapacity) : n < 2 ^ p.addrWidth := by
  unfold Params.addrWidth
  split
  · omega
  · have := Nat.lt_log2_self (n := p.bufCapacity)
    omega

/-- Bringing an instance into focus. -/
theorem State.focus_eq_some (s s' : State) (k : Nat) :
    s.focus k = some s' ↔ ∃ d, s.decs[k]? = some d ∧ s' = { s with left := s.decs.take k, dec := d, right := s.decs.drop (k + 1) } := by
  unfold State.focus
  by_cases hk : k < s.decs.length
  · rw [List.drop_eq_getElem_cons hk]
    simp [List.getElem?_eq_getElem hk, eq_comm]
  · rw [List.drop_eq_nil_of_le (by omega), List.getElem?_eq_none (by omega)]
    simp

/-- Focusing changes nothing but the focus. -/
theorem State.focus_spec (s s' : State) (k : Nat) (h : s.focus k = some s') :
    s'.decs = s.decs ∧ s.decs[k]? = some s'.dec ∧ s'.focused = k ∧ s'.buffers = s.buffers ∧ s'.hosts = s.hosts ∧
      s'.turns = s.turns ∧ s'.draws = s.draws := by
  obtain ⟨d, hd, rfl⟩ := (State.focus_eq_some s s' k).1 h
  obtain ⟨hk, hl⟩ := List.getElem?_eq_some_iff.1 hd
  refine ⟨?_, hd, ?_, rfl, rfl, rfl, rfl⟩
  · show s.decs.take k ++ d :: s.decs.drop (k + 1) = s.decs
    conv_rhs => rw [← List.take_append_drop k s.decs]
    rw [List.drop_eq_getElem_cons hk, hl]
  · show (s.decs.take k).length = k
    rw [List.length_take]; omega

/-- An instance that the machine has can be brought into focus. -/
theorem State.focus_some (s : State) (k : Nat) (d : Decoder) (h : s.decs[k]? = some d) : ∃ s', s.focus k = some s' ∧ s'.dec = d :=
  ⟨_, (State.focus_eq_some s _ k).2 ⟨d, h, rfl⟩, rfl⟩

/-- One that it does not have cannot. -/
theorem State.focus_eq_none (s : State) (k : Nat) : s.focus k = none ↔ s.decs[k]? = none := by
  constructor
  · intro h
    by_contra hne
    obtain ⟨d, hd⟩ := Option.ne_none_iff_exists'.1 hne
    obtain ⟨_, hs, _⟩ := s.focus_some k d hd
    rw [h] at hs; cases hs
  · intro h
    by_contra hne
    obtain ⟨s', hs⟩ := Option.ne_none_iff_exists'.1 hne
    have := (State.focus_spec s s' k hs).2.1
    rw [h] at this; cases this

/-- The instance in focus stays in focus. -/
theorem State.focus_focused (s : State) : s.focus s.focused = some s := by
  simp [State.focus, State.decs, State.focused]

/-- The instances after the focused one has changed. -/
theorem State.decs_with_dec (s : State) (d : Decoder) : State.decs { s with dec := d } = s.decs.set s.focused d := by
  simp [State.decs, State.focused]

/-- The instance in focus, by its number. -/
theorem State.decs_focused (s : State) : s.decs[s.focused]? = some s.dec := by
  simp [State.decs, State.focused]

/-- The instance in focus is one of the machine's. -/
theorem State.dec_mem (s : State) : s.dec ∈ s.decs := by simp [State.decs]

/-- The contents of the buffers after a change. -/
theorem State.replaceBuffer_buffer (s : State) (m : Memory) (n b : Nat) (hb : s.dec.bufId < s.buffers.length) :
    (s.replaceBuffer m n).buffer b = if b = s.dec.bufId then m else s.buffer b := by
  simp only [State.buffer, State.replaceBuffer_buffers, List.getD_eq_getElem?_getD]
  by_cases h : b = s.dec.bufId
  · subst h; simp [hb]
  · rw [List.getElem?_set_ne (Ne.symm h), if_neg h]

/-- When a buffer can be changed, and what a change does (R44, R126, R138). -/
theorem State.changeBuffer_eq_next (s t : State) (lent : Bool) (m : Memory) (n : Nat) :
    s.changeBuffer lent m n = .next t ↔
      s.sharedBusy = false ∧ n ≤ s.capacity ∧ lent = false ∧ s.dec.bufId < s.buffers.length ∧ t = s.replaceBuffer m n := by
  unfold State.changeBuffer
  split_ifs with h1 h2 h3 h4
  · simp [h1]
  · simp [h2]
  · simp [h3]
  · simp [h4]
  · rw [Host.Outcome.next.injEq, eq_comm]
    simp only [Bool.not_eq_true] at h1 h3
    simp only [h1, h3, not_lt.1 h2, not_le.1 h4, true_and]

/-- A free buffer's length is within the capacity. -/
theorem State.length_freeBuffer (s : State) : s.freeBuffer.length ≤ s.capacity := by
  simp [State.freeBuffer]

/-- Storing a free buffer leaves the bytes of a live window as they were (R131). -/
theorem State.read_freeBuffer (s : State) (hm : Memory.wf s.lane.buf = true) (a : Nat) (ha : s.onLoan a (a + 1) = true) :
    Memory.read (Memory.writeList s.lane.buf 0 s.freeBuffer) a = Memory.read s.lane.buf a := by
  rw [Memory.read_writeList _ _ hm]
  split
  · rename_i h
    rw [List.getD_eq_getElem _ _ (by omega)]
    simp [State.freeBuffer, ha]
  · rfl

/-- No instance that shares the focused one's buffer is BUSY. -/
theorem State.sharedBusy_eq_false (s : State) :
    s.sharedBusy = false ↔ ∀ d ∈ s.decs, d.bufId = s.dec.bufId → d.ctrl ≠ ctrlBusy := by
  simp [State.sharedBusy]

/-- The capacity of a shared buffer: within every BUF_CAPACITY. -/
theorem State.le_capacity (s : State) (n : Nat) :
    n ≤ s.capacity ↔ ∀ d ∈ s.decs, d.bufId = s.dec.bufId → n ≤ d.params.bufCapacity := by
  have key : ∀ ds : List Decoder, n ≤ ds.foldr (fun d c => if d.bufId = s.dec.bufId then min d.params.bufCapacity c else c)
      s.dec.params.bufCapacity ↔ n ≤ s.dec.params.bufCapacity ∧ ∀ d ∈ ds, d.bufId = s.dec.bufId → n ≤ d.params.bufCapacity := by
    intro ds
    induction ds with
    | nil => simp
    | cons d ds ih =>
      simp only [List.foldr_cons, List.forall_mem_cons]
      split
      · rename_i h
        rw [le_min_iff, ih]; simp only [h, forall_const]; tauto
      · rename_i h
        rw [ih]; simp only [h, false_implies, true_and]
  unfold State.capacity
  rw [key]
  exact ⟨fun h => h.2, fun h => ⟨h _ s.dec_mem rfl, h⟩⟩

/-- Whose mark a Complete sets (R139, log entry 27). -/
theorem State.noteError_hosts (s : State) (no : Nat) :
    s.noteError.hosts[no]? = (s.hosts[no]?).map (fun h =>
      if s.dec.requester = some no ∧ structuralCode s.dec.resp.status = true then { h with structural := true } else h) := by
  unfold State.noteError
  cases hr : s.dec.requester with
  | none => simp
  | some r =>
    by_cases hc : structuralCode s.dec.resp.status = true
    · by_cases e : r = no
      · subst e; simp [hc]
      · simp [hc, e]
    · simp [hc]

end Sys2Proof.Machine
end

