-- ==== Sys2Proof/Laws/HostActions.lean ====
section
/-!
SUPPORT. What each host action can do: when it answers a next state, and which.
-/

namespace Sys2Proof.Machine

/-- A refused guard in front of an outcome. -/
theorem refused_guard_eq_next {σ : Type} {c : Prop} [Decidable c] {r : Refusal} {o : Host.Outcome σ Fault Refusal} {x : σ} :
    (if c then .refused r else o) = .next x ↔ ¬ c ∧ o = .next x := by
  by_cases h : c <;> simp [h]

/-- A faulting guard in front of an outcome. -/
theorem fault_guard_eq_next {σ : Type} {c : Prop} [Decidable c] {r : Fault} {o : Host.Outcome σ Fault Refusal} {x : σ} :
    (if c then .fault r else o) = .next x ↔ ¬ c ∧ o = .next x := by
  by_cases h : c <;> simp [h]

/-- Two next states. -/
theorem next_eq_next {σ : Type} {x y : σ} : (Host.Outcome.next x : Host.Outcome σ Fault Refusal) = .next y ↔ y = x := by
  rw [Host.Outcome.next.injEq, eq_comm]

/-- A next state of a host and a machine. -/
theorem next_pair_eq_next {h h' : HostAgent} {s t : State} : (Host.Outcome.next (h, s) : OpOutcome) = .next (h', t) ↔ h' = h ∧ t = s := by
  rw [next_eq_next, Prod.mk.injEq]

/-- A change of the machine with the host after it. -/
theorem withHost_eq_next {h h' : HostAgent} {o : Host.Outcome State Fault Refusal} {t : State} :
    withHost h o = .next (h', t) ↔ h' = h ∧ o = .next t := by
  cases o with
  | next s => rw [withHost_next, next_pair_eq_next, next_eq_next]
  | fault r => simp
  | refused r => simp

/-- A change of the instance in focus. -/
theorem State.onLane_eq_next {s t : State} {o : Host.Outcome Decoder Fault Refusal} :
    s.onLane o = .next t ↔ ∃ d, o = .next d ∧ t = { s with dec := d } := by
  cases o with
  | next d => simp [eq_comm]
  | fault r => simp
  | refused r => simp

variable (no : Nat) (h h' : HostAgent) (s t : State)

/-- A buffer write (R126). -/
theorem hostWrite_eq_next (bs : List Byte) :
    hostWrite bs h s = .next (h', t) ↔
      h' = h.nextLine ∧ s.sharedBusy = false ∧ bs.length ≤ s.capacity ∧ s.onLoan 0 bs.length = false ∧ s.dec.bufId < s.buffers.length ∧
        t = s.replaceBuffer (Memory.writeList s.lane.buf 0 bs) bs.length := by
  unfold hostWrite
  rw [withHost_eq_next, State.changeBuffer_eq_next]

/-- An append (R126). -/
theorem hostAppend_eq_next (bs : List Byte) :
    hostAppend bs h s = .next (h', t) ↔
      h' = h.nextLine ∧ s.sharedBusy = false ∧ s.dec.bufLen + bs.length ≤ s.capacity ∧
        s.onLoan s.dec.bufLen (s.dec.bufLen + bs.length) = false ∧ s.dec.bufId < s.buffers.length ∧
        t = s.replaceBuffer (Memory.writeList s.lane.buf s.dec.bufLen bs) (s.dec.bufLen + bs.length) := by
  unfold hostAppend
  rw [withHost_eq_next, State.changeBuffer_eq_next]

/-- A drop of bytes that the buffer holds (R136). -/
theorem dropHeld_eq_next (k : Nat) :
    dropHeld k h s = .next (h', t) ↔
      h' = h.rebased k ∧ s.sharedBusy = false ∧ s.dec.bufLen - k ≤ s.capacity ∧
        (k = 0 ∨ s.onLoan 0 k = false ∧ s.onLoan 0 (s.dec.bufLen - k) = false) ∧ s.dec.bufId < s.buffers.length ∧
        t = s.replaceBuffer (s.lane.dropped k) (s.dec.bufLen - k) := by
  unfold dropHeld
  rw [withHost_eq_next, State.changeBuffer_eq_next]
  simp only [ne_eq, decide_not, Bool.and_eq_false_imp, Bool.not_eq_true', decide_eq_false_iff_not, Bool.or_eq_false_iff,
    or_iff_not_imp_left]

/-- A drop of more bytes than the buffer holds (log entry 23). -/
theorem dropBeyond_eq_next (k : Nat) :
    dropBeyond k h s = .next (h', t) ↔
      h' = h.rebased k ∧ s.sharedBusy = false ∧ s.onLoan 0 k = false ∧
        s.dec.bufId < s.buffers.length ∧
        t = { s with draws := s.draws + 1 }.replaceBuffer (Memory.writeList s.lane.buf 0 s.freeBuffer) s.freeBuffer.length := by
  unfold dropBeyond
  rw [withHost_eq_next, State.changeBuffer_eq_next]
  have e : s.freeBuffer.length ≤ s.capacity := s.length_freeBuffer
  constructor
  · rintro ⟨h1, h2, _, h3, h4, h5⟩; exact ⟨h1, h2, h3, h4, h5⟩
  · rintro ⟨h1, h2, h3, h4, h5⟩; exact ⟨h1, h2, e, h3, h4, h5⟩

/-- A drop (R136). -/
theorem hostDrop_eq_next (k : Nat) :
    hostDrop k h s = .next (h', t) ↔
      s.sharedBusy = false ∧ k ≤ h.cur ∧
        (k ≤ s.dec.bufLen ∧ dropHeld k h s = .next (h', t) ∨ s.dec.bufLen < k ∧ dropBeyond k h s = .next (h', t)) := by
  unfold hostDrop
  rw [refused_guard_eq_next, refused_guard_eq_next, Bool.not_eq_true, not_lt]
  by_cases hk : k ≤ s.dec.bufLen
  · simp [hk, not_lt.2 hk]
  · simp [hk, not_le.1 hk]

/-- Accept (R84, R127). -/
theorem Decoder.request_eq_next (o : Nat) (d d' : Decoder) :
    d.request no o = .next d' ↔ d.ctrl ≠ ctrlBusy ∧ o < 2 ^ d.params.addrWidth ∧ d' = { d.accept o with requester := some no } := by
  unfold Decoder.request
  rw [refused_guard_eq_next, refused_guard_eq_next, next_eq_next, not_le]

/-- The request action (R125). -/
theorem hostRequest_eq_next (o : OffsetArg) :
    hostRequest no o h s = .next (h', t) ↔
      h' = h.nextLine ∧ s.dec.ctrl ≠ ctrlBusy ∧ o.value h < 2 ^ s.dec.params.addrWidth ∧
        t = { s with dec := { s.dec.accept (o.value h) with requester := some no } } := by
  unfold hostRequest
  rw [withHost_eq_next, State.onLane_eq_next]
  simp only [Decoder.request_eq_next]
  constructor
  · rintro ⟨rfl, d, ⟨h1, h2, rfl⟩, rfl⟩; exact ⟨rfl, h1, h2, rfl⟩
  · rintro ⟨rfl, h1, h2, rfl⟩; exact ⟨rfl, _, ⟨h1, h2, rfl⟩, rfl⟩

/-- The DECODE line (R127, R128): the request, then the wait. -/
theorem hostDecode_eq_next (o : OffsetArg) :
    hostDecode no o h s = .next (h', t) ↔
      (h.awaiting = true ∧
        ((s.dec.ctrl = ctrlBusy ∧ h' = h ∧ t = s) ∨
          (s.dec.ctrl ≠ ctrlBusy ∧ s.dec.respValid = 1#1 ∧ h' = h.nextLine ∧ t = { s with dec := s.dec.waitedFor no }) ∨
          (s.dec.ctrl ≠ ctrlBusy ∧ s.dec.respValid ≠ 1#1 ∧ h' = { h with awaiting := false } ∧ t = s))) ∨
      (h.awaiting = false ∧ s.dec.ctrl ≠ ctrlBusy ∧ o.value h < 2 ^ s.dec.params.addrWidth ∧ h' = { h with awaiting := true } ∧
        t = { s with dec := { s.dec.accept (o.value h) with requester := some no } }) := by
  unfold hostDecode
  by_cases hr : h.awaiting = true
  · rw [if_pos hr]
    by_cases h1 : s.dec.ctrl = ctrlBusy
    · rw [if_pos h1, next_pair_eq_next]; simp [hr, h1]
    · by_cases h2 : s.dec.respValid = 1#1
      · rw [if_neg h1, if_pos h2, next_pair_eq_next]; simp [hr, h1, h2]
      · rw [if_neg h1, if_neg h2, next_pair_eq_next]; simp [hr, h1, h2]
  · rw [if_neg hr, withHost_eq_next, State.onLane_eq_next]
    simp only [Decoder.request_eq_next]
    constructor
    · rintro ⟨rfl, d, ⟨h1, h2, rfl⟩, rfl⟩
      exact Or.inr ⟨Bool.not_eq_true _ ▸ hr, h1, h2, rfl, rfl⟩
    · rintro (⟨h0, _⟩ | ⟨h0, h1, h2, rfl, rfl⟩)
      · exact absurd h0 hr
      · exact ⟨rfl, _, ⟨h1, h2, rfl⟩, rfl⟩

/-- The wait alone (R128). -/
theorem hostWait_eq_next :
    hostWait no h s = .next (h', t) ↔
      (s.dec.ctrl = ctrlBusy ∧ h' = { h with awaiting := true } ∧ t = s) ∨
        (s.dec.ctrl ≠ ctrlBusy ∧ (s.dec.respValid = 1#1 ∨ h.awaiting = true ∨ s.dec.requester = some no) ∧ h' = h.nextLine ∧
          t = { s with dec := s.dec.waitedFor no }) := by
  unfold hostWait
  by_cases h1 : s.dec.ctrl = ctrlBusy
  · rw [if_pos h1, next_pair_eq_next]; simp [h1]
  · rw [if_neg h1]
    split_ifs with h2
    · rw [next_pair_eq_next]; simp [h1, h2]
    · simp [h1, h2]

/-- A read by name (R129). -/
theorem hostRead_eq_next (r : Reg) :
    hostRead r h s = .next (h', t) ↔
      ¬ (r = .respStatus ∧ statusReserved s.dec.resp.status = true) ∧ h' = { h with seen := some (s.dec.readReg r) }.nextLine ∧ t = s := by
  unfold hostRead
  rw [fault_guard_eq_next, next_pair_eq_next]

/-- With a stride, a register stands at the address of its index and at no other index's (R24). -/
theorem regAddress_eq_iff_index (p : Params) (hp : p.regStride ≠ 0) (r : Reg) (k : Nat) :
    regAddress p r = some (p.regBase + k * p.regStride) ↔ r.index = some k := by
  unfold regAddress
  cases r.index with
  | none => simp
  | some j => simp [hp]

/-- With a stride, the register that stands at the address of an index is the one of that index (R24). -/
theorem regAtAddress_of_index (p : Params) (hp : p.regStride ≠ 0) (r : Reg) (k : Nat) (h : r.index = some k) :
    regAtAddress p (p.regBase + k * p.regStride) = some r := by
  have same : (fun r' : Reg => regAddress p r' == some (p.regBase + k * p.regStride)) = fun r' => r'.index == some k :=
    funext fun r' => Bool.eq_iff_iff.2 (by simpa using regAddress_eq_iff_index p hp r' k)
  unfold regAtAddress
  rw [same]
  cases r <;> cases h <;> rfl

/-- A read at an address is a read of the register that stands there (R24). -/
theorem hostReadAt_eq_next (addr : Nat) :
    hostReadAt addr h s = .next (h', t) ↔ ∃ r, regAtAddress s.dec.params addr = some r ∧ hostRead r h s = .next (h', t) := by
  unfold hostReadAt
  cases regAtAddress s.dec.params addr <;> simp

/-- ADVANCE (R130). -/
theorem hostAdvance_eq_next :
    hostAdvance h s = .next (h', t) ↔
      s.dec.respValid = 1#1 ∧ statusReserved s.dec.resp.status = false ∧
        h' = { h with cur := h.cur + s.dec.resp.consumed, delivered := h.delivered ++ s.dec.resp.frame.toList }.nextLine ∧ t = s := by
  unfold hostAdvance
  rw [refused_guard_eq_next, fault_guard_eq_next, next_pair_eq_next, not_not, Bool.not_eq_true]

/-- IF (R129). -/
theorem hostIf_eq_next (st : Status) (line : Nat) :
    hostIf st line h s = .next (h', t) ↔
      statusReserved s.dec.resp.status = false ∧
        h' = (if s.dec.respValid = 1#1 ∧ s.dec.resp.status = st.code then h.goto line else h.nextLine) ∧ t = s := by
  unfold hostIf
  rw [fault_guard_eq_next, Bool.not_eq_true]
  split_ifs with hc <;> rw [next_pair_eq_next]

/-- What an action does to the machine (R125): it changes the instance in focus alone, or a buffer. -/
inductive OpEffect (no : Nat) (op : Op) (h : HostAgent) (s : State) : State → Prop
  | same : OpEffect no op h s s
  | waited : OpEffect no op h s { s with dec := s.dec.waitedFor no }
  | accept (o : OffsetArg) (hop : op = .decode o ∨ op = .request o) (hb : s.dec.ctrl ≠ ctrlBusy)
      (ho : o.value h < 2 ^ s.dec.params.addrWidth) :
      OpEffect no op h s { s with dec := { s.dec.accept (o.value h) with requester := some no } }
  | reset (hop : op = .reset) : OpEffect no op h s { s with dec := s.dec.resetRegs }
  | release (hop : op = .release) : OpEffect no op h s { s with dec := { s.dec with borrowed := [] } }
  | buffer (m : Memory) (n draws : Nat) (hop : op.changesBuffer = true) (hb : s.sharedBusy = false) (hn : n ≤ s.capacity)
      (hi : s.dec.bufId < s.buffers.length) (hw : Memory.wf s.lane.buf = true → Memory.wf m = true)
      (hm : ∀ c ∈ m, c.1 < s.capacity ∨ c ∈ s.lane.buf) :
      OpEffect no op h s ({ s with draws := draws }.replaceBuffer m n)

/-- What any action does, said once. -/
theorem hostAct_effect (op : Op) (e : hostAct no op h s = .next (h', t)) : OpEffect no op h s t := by
  cases op <;> simp only [hostAct] at e
  case write bs =>
    obtain ⟨_, hb, hn, _, hi, rfl⟩ := (hostWrite_eq_next _ _ _ _ _).1 e
    exact .buffer _ _ s.draws rfl hb hn hi (Memory.wf_writeList _ _ _)
      (fun c hc => (Memory.mem_writeList _ _ _ _ hc).imp_left (fun h => by omega))
  case append bs =>
    obtain ⟨_, hb, hn, _, hi, rfl⟩ := (hostAppend_eq_next _ _ _ _ _).1 e
    exact .buffer _ _ s.draws rfl hb hn hi (Memory.wf_writeList _ _ _)
      (fun c hc => (Memory.mem_writeList _ _ _ _ hc).imp_left (fun h => by omega))
  case drop k =>
    obtain ⟨hb, _, ⟨_, e⟩ | ⟨_, e⟩⟩ := (hostDrop_eq_next _ _ _ _ _).1 e
    · obtain ⟨_, hb, hn, _, hi, rfl⟩ := (dropHeld_eq_next _ _ _ _ _).1 e
      refine .buffer _ _ s.draws rfl hb hn hi (Memory.wf_writeList _ _ _) (fun c hc => ?_)
      refine (Memory.mem_writeList _ _ _ _ hc).imp_left (fun h => ?_)
      simp only [Memory.length_slice, State.lane_toDecoder] at h; omega
    · obtain ⟨_, hb, _, hi, rfl⟩ := (dropBeyond_eq_next _ _ _ _ _).1 e
      refine .buffer _ _ (s.draws + 1) rfl hb s.length_freeBuffer hi (Memory.wf_writeList _ _ _) (fun c hc => ?_)
      refine (Memory.mem_writeList _ _ _ _ hc).imp_left (fun h => ?_)
      have := s.length_freeBuffer; omega
  case decode o =>
    rcases (hostDecode_eq_next _ _ _ _ _ _).1 e with ⟨_, ⟨_, _, rfl⟩ | ⟨_, _, _, rfl⟩ | ⟨_, _, _, rfl⟩⟩ | ⟨_, hb, ho, _, rfl⟩
    · exact .same
    · exact .waited
    · exact .same
    · exact .accept o (Or.inl rfl) hb ho
  case request o => obtain ⟨_, hb, ho, rfl⟩ := (hostRequest_eq_next _ _ _ _ _ _).1 e; exact .accept o (Or.inr rfl) hb ho
  case wait =>
    rcases (hostWait_eq_next _ _ _ _ _).1 e with ⟨_, _, rfl⟩ | ⟨_, _, _, rfl⟩
    · exact .same
    · exact .waited
  case read r => obtain ⟨_, _, rfl⟩ := (hostRead_eq_next _ _ _ _ _).1 e; exact .same
  case readAt addr =>
    obtain ⟨_, _, e⟩ := (hostReadAt_eq_next _ _ _ _ _).1 e
    obtain ⟨_, _, rfl⟩ := (hostRead_eq_next _ _ _ _ _).1 e; exact .same
  case advance => obtain ⟨_, _, _, rfl⟩ := (hostAdvance_eq_next _ _ _ _).1 e; exact .same
  case ifStatus st line => obtain ⟨_, _, rfl⟩ := (hostIf_eq_next _ _ _ _ _ _).1 e; exact .same
  case reset => rw [hostReset, next_pair_eq_next] at e; obtain ⟨_, rfl⟩ := e; exact .reset rfl
  case release => rw [hostRelease, next_pair_eq_next] at e; obtain ⟨_, rfl⟩ := e; exact .release rfl

/-- What every action leaves of the host: its program, its run, its mark and the instances it has used. -/
theorem hostAct_host (op : Op) (e : hostAct no op h s = .next (h', t)) :
    h'.program = h.program ∧ h'.run = h.run ∧ h'.structural = h.structural ∧ h'.used = h.used := by
  cases op <;> simp only [hostAct] at e
  case write bs => obtain ⟨rfl, _⟩ := (hostWrite_eq_next _ _ _ _ _).1 e; exact ⟨rfl, rfl, rfl, rfl⟩
  case append bs => obtain ⟨rfl, _⟩ := (hostAppend_eq_next _ _ _ _ _).1 e; exact ⟨rfl, rfl, rfl, rfl⟩
  case drop k =>
    obtain ⟨_, _, ⟨_, e⟩ | ⟨_, e⟩⟩ := (hostDrop_eq_next _ _ _ _ _).1 e
    · obtain ⟨rfl, _⟩ := (dropHeld_eq_next _ _ _ _ _).1 e; exact ⟨rfl, rfl, rfl, rfl⟩
    · obtain ⟨rfl, _⟩ := (dropBeyond_eq_next _ _ _ _ _).1 e; exact ⟨rfl, rfl, rfl, rfl⟩
  case decode o =>
    rcases (hostDecode_eq_next _ _ _ _ _ _).1 e with ⟨_, ⟨_, rfl, _⟩ | ⟨_, _, rfl, _⟩ | ⟨_, _, rfl, _⟩⟩ | ⟨_, _, _, rfl, _⟩ <;>
      exact ⟨rfl, rfl, rfl, rfl⟩
  case request o => obtain ⟨rfl, _⟩ := (hostRequest_eq_next _ _ _ _ _ _).1 e; exact ⟨rfl, rfl, rfl, rfl⟩
  case wait => rcases (hostWait_eq_next _ _ _ _ _).1 e with ⟨_, rfl, _⟩ | ⟨_, _, rfl, _⟩ <;> exact ⟨rfl, rfl, rfl, rfl⟩
  case read r => obtain ⟨_, rfl, _⟩ := (hostRead_eq_next _ _ _ _ _).1 e; exact ⟨rfl, rfl, rfl, rfl⟩
  case readAt addr =>
    obtain ⟨_, _, e⟩ := (hostReadAt_eq_next _ _ _ _ _).1 e
    obtain ⟨_, rfl, _⟩ := (hostRead_eq_next _ _ _ _ _).1 e; exact ⟨rfl, rfl, rfl, rfl⟩
  case advance => obtain ⟨_, _, rfl, _⟩ := (hostAdvance_eq_next _ _ _ _).1 e; exact ⟨rfl, rfl, rfl, rfl⟩
  case ifStatus st line =>
    obtain ⟨_, rfl, _⟩ := (hostIf_eq_next _ _ _ _ _ _).1 e
    split_ifs <;> exact ⟨rfl, rfl, rfl, rfl⟩
  case reset => rw [hostReset, next_pair_eq_next] at e; obtain ⟨rfl, _⟩ := e; exact ⟨rfl, rfl, rfl, rfl⟩
  case release => rw [hostRelease, next_pair_eq_next] at e; obtain ⟨rfl, _⟩ := e; exact ⟨rfl, rfl, rfl, rfl⟩

/-- Which actions write the cursor (R133), the frames handed on (R130) and the last value read (R129). -/
theorem hostAct_writes (op : Op) (e : hostAct no op h s = .next (h', t)) :
    (h'.cur = h.cur ∨ op = .advance ∨ ∃ k, op = .drop k) ∧ (h'.delivered = h.delivered ∨ op = .advance) ∧
      (h'.seen = h.seen ∨ (∃ r, op = .read r) ∨ ∃ addr, op = .readAt addr) := by
  cases op <;> simp only [hostAct] at e
  case write bs => obtain ⟨rfl, _⟩ := (hostWrite_eq_next _ _ _ _ _).1 e; simp
  case append bs => obtain ⟨rfl, _⟩ := (hostAppend_eq_next _ _ _ _ _).1 e; simp
  case drop k =>
    obtain ⟨_, _, ⟨_, e⟩ | ⟨_, e⟩⟩ := (hostDrop_eq_next _ _ _ _ _).1 e
    · obtain ⟨rfl, _⟩ := (dropHeld_eq_next _ _ _ _ _).1 e; simp
    · obtain ⟨rfl, _⟩ := (dropBeyond_eq_next _ _ _ _ _).1 e; simp
  case decode o =>
    rcases (hostDecode_eq_next _ _ _ _ _ _).1 e with ⟨_, ⟨_, rfl, _⟩ | ⟨_, _, rfl, _⟩ | ⟨_, _, rfl, _⟩⟩ | ⟨_, _, _, rfl, _⟩ <;> simp
  case request o => obtain ⟨rfl, _⟩ := (hostRequest_eq_next _ _ _ _ _ _).1 e; simp
  case wait => rcases (hostWait_eq_next _ _ _ _ _).1 e with ⟨_, rfl, _⟩ | ⟨_, _, rfl, _⟩ <;> simp
  case read r => obtain ⟨_, rfl, _⟩ := (hostRead_eq_next _ _ _ _ _).1 e; simp
  case readAt addr =>
    obtain ⟨_, _, e⟩ := (hostReadAt_eq_next _ _ _ _ _).1 e
    obtain ⟨_, rfl, _⟩ := (hostRead_eq_next _ _ _ _ _).1 e; simp
  case advance => exact ⟨Or.inr (Or.inl rfl), Or.inr rfl, by obtain ⟨_, _, rfl, _⟩ := (hostAdvance_eq_next _ _ _ _).1 e; simp⟩
  case ifStatus st line =>
    obtain ⟨_, rfl, _⟩ := (hostIf_eq_next _ _ _ _ _ _).1 e
    split_ifs <;> simp
  case reset => rw [hostReset, next_pair_eq_next] at e; obtain ⟨rfl, _⟩ := e; simp
  case release => rw [hostRelease, next_pair_eq_next] at e; obtain ⟨rfl, _⟩ := e; simp

/-- No change of a buffer faults. -/
theorem withHost_changeBuffer_ne_fault (lent : Bool) (m : Memory) (n : Nat) (r : Fault) :
    withHost h (s.changeBuffer lent m n) ≠ .fault r := by
  unfold State.changeBuffer
  split_ifs <;> simp

/-- No request faults. -/
theorem withHost_request_ne_fault (o : Nat) (r : Fault) : withHost h (s.onLane (s.dec.request no o)) ≠ .fault r := by
  unfold Decoder.request
  split_ifs <;> simp

/-- The only fault of an action is a reserved status that it reads. -/
theorem hostAct_fault (op : Op) (r : Fault) (e : hostAct no op h s = .fault r) :
    r = .reservedStatus ∧ statusReserved s.dec.resp.status = true := by
  cases op <;> simp only [hostAct] at e
  case write bs => exact absurd e (withHost_changeBuffer_ne_fault _ _ _ _ _ _)
  case append bs => exact absurd e (withHost_changeBuffer_ne_fault _ _ _ _ _ _)
  case drop k =>
    unfold hostDrop at e
    split_ifs at e
    · exact absurd e (withHost_changeBuffer_ne_fault _ _ _ _ _ _)
    · exact absurd e (withHost_changeBuffer_ne_fault _ _ _ _ _ _)
  case decode o =>
    unfold hostDecode at e
    split_ifs at e
    exact absurd e (withHost_request_ne_fault _ _ _ _ _)
  case request o => exact absurd e (withHost_request_ne_fault _ _ _ _ _)
  case wait => unfold hostWait at e; split_ifs at e
  case read r' =>
    unfold hostRead at e
    split_ifs at e with hr
    cases e; exact ⟨rfl, hr.2⟩
  case readAt addr =>
    unfold hostReadAt hostRead at e
    split at e
    · split_ifs at e with hr
      cases e; exact ⟨rfl, hr.2⟩
    · cases e
  case advance =>
    unfold hostAdvance at e
    split_ifs at e with hr
    cases e; exact ⟨rfl, by assumption⟩
  case ifStatus st line =>
    unfold hostIf at e
    split_ifs at e with hr
    cases e; exact ⟨rfl, hr⟩
  all_goals cases e

end Sys2Proof.Machine
end

