-- ==== Sys2Proof/Laws/PerInstr.lean ====
section
/-!
SUPPORT. The family of statements made per instruction: how the encoding of an instruction relates to its row of the opcode table.
-/

namespace Sys2Proof.Laws.HeaderOfRow

/-- The encoding of an instruction is 7 bytes, the first of them its tag; and the tag of a well-formed one is matched by a row of the opcode table. -/
def Statement (i : Instr) : Prop :=
  (encode i).length = 7 ∧ (encode i).head? = some i.tag ∧
    (i.wellFormed = true → ∃ row ∈ opcodeRows, tagMatches row i.tag = true)

theorem method (ch : Channel) (len : Length) : Statement (.method ch len) :=
  ⟨rfl, rfl, fun _ => ⟨(0x01#8, 0xFF#8), by decide, (by decide : tagMatches (0x01#8, 0xFF#8) 0x01 = true)⟩⟩

theorem header (ch : Channel) (len : Length) : Statement (.header ch len) :=
  ⟨rfl, rfl, fun _ => ⟨(0x02#8, 0xFF#8), by decide, (by decide : tagMatches (0x02#8, 0xFF#8) 0x02 = true)⟩⟩

theorem body (ch : Channel) (len : Length) : Statement (.body ch len) :=
  ⟨rfl, rfl, fun _ => ⟨(0x03#8, 0xFF#8), by decide, (by decide : tagMatches (0x03#8, 0xFF#8) 0x03 = true)⟩⟩

theorem heartbeat (ch : Channel) (len : Length) : Statement (.heartbeat ch len) :=
  ⟨rfl, rfl, fun _ => ⟨(0x08#8, 0xFF#8), by decide, (by decide : tagMatches (0x08#8, 0xFF#8) 0x08 = true)⟩⟩

theorem unknown00 (ch : Channel) (len : Length) : Statement (.unknown00 ch len) :=
  ⟨rfl, rfl, fun _ => ⟨(0x00#8, 0xFF#8), by decide, (by decide : tagMatches (0x00#8, 0xFF#8) 0x00 = true)⟩⟩

theorem unknown04 (tag : Byte) (ch : Channel) (len : Length) : Statement (.unknown04 tag ch len) :=
  ⟨rfl, rfl, fun h => ⟨(0x04#8, 0xFC#8), by decide, h⟩⟩

theorem unknown09 (ch : Channel) (len : Length) : Statement (.unknown09 ch len) :=
  ⟨rfl, rfl, fun _ => ⟨(0x09#8, 0xFF#8), by decide, (by decide : tagMatches (0x09#8, 0xFF#8) 0x09 = true)⟩⟩

theorem unknown0A (tag : Byte) (ch : Channel) (len : Length) : Statement (.unknown0A tag ch len) :=
  ⟨rfl, rfl, fun h => ⟨(0x0A#8, 0xFE#8), by decide, h⟩⟩

theorem unknown0C (tag : Byte) (ch : Channel) (len : Length) : Statement (.unknown0C tag ch len) :=
  ⟨rfl, rfl, fun h => ⟨(0x0C#8, 0xFC#8), by decide, h⟩⟩

theorem unknown10 (tag : Byte) (ch : Channel) (len : Length) : Statement (.unknown10 tag ch len) :=
  ⟨rfl, rfl, fun h => ⟨(0x10#8, 0xF0#8), by decide, h⟩⟩

theorem unknown20 (tag : Byte) (ch : Channel) (len : Length) : Statement (.unknown20 tag ch len) :=
  ⟨rfl, rfl, fun h => ⟨(0x20#8, 0xE0#8), by decide, h⟩⟩

theorem unknown40 (tag : Byte) (ch : Channel) (len : Length) : Statement (.unknown40 tag ch len) :=
  ⟨rfl, rfl, fun h => ⟨(0x40#8, 0xC0#8), by decide, h⟩⟩

theorem unknown80 (tag : Byte) (ch : Channel) (len : Length) : Statement (.unknown80 tag ch len) :=
  ⟨rfl, rfl, fun h => ⟨(0x80#8, 0x80#8), by decide, h⟩⟩

end Sys2Proof.Laws.HeaderOfRow
end

