-- ==== Sys2Proof/Laws/Step.lean ====
section
/-!
SUPPORT. What a step can do, said once: to the machine, to one instance, to one buffer and to one host.
-/

namespace Sys2Proof.Machine

/-- What a step does to the machine (R23, R125, R160). -/
inductive StepEffect (s : State) : State → Prop
  | complete (s' : State) (hr : s.decoderReady s') : StepEffect s (s'.completed (laneResponse s'.lane)).noteError
  | pass (s' : State) (hn : s.nextTurn = .decoder s'.focused) (hf : s.usedTurn.focus s'.focused = some s') (hb : s'.dec.ctrl ≠ ctrlBusy)
      (hr : s'.dec.ctrl ≠ ctrlReserved) : StepEffect s s'
  | reset (s' : State) (hr : s.resetReady s') : StepEffect s { s' with dec := s'.dec.resetRegs }
  | idle (no : Nat) (h : HostAgent) (hn : s.nextTurn = .host no) (hh : s.hosts[no]? = some h) (hi : h.idle) : StepEffect s s.usedTurn
  | control (no : Nat) (h h' : HostAgent) (a : Action) (ha : s.hostAt no h a)
      (hc : (∃ line, a = .goto line ∧ h' = h.goto line) ∨ (a = .abort ∧ h' = h.abort) ∨ (a = .halt ∧ h' = h.halt) ∨
        (a = .start ∧ h' = h.start)) : StepEffect s (s.usedTurn.setHost no h')
  | act (s' u : State) (no : Nat) (h h' : HostAgent) (op : Op) (hr : s.hostReady s' no h op)
      (ho : hostAct no op (h.uses s'.focused) s' = .next (h', u)) : StepEffect s (u.setHost no h')

/-- A Complete step writes the lane's response (R85), and marks its host where that is a structural error. -/
theorem step_of_decoderReady (s s' : State) (h : s.decoderReady s') :
    step s = .next (s'.completed (laneResponse s'.lane)).noteError := by
  obtain ⟨hn, hf, hb⟩ := h
  simp only [step, hn, onInstance, hf]
  exact decoderTurn_of_busy s' hb

/-- A Reset step. -/
theorem step_of_resetReady (s s' : State) (h : s.resetReady s') : step s = .next { s' with dec := s'.dec.resetRegs } := by
  obtain ⟨hn, hf⟩ := h
  simp only [step, hn, onInstance, hf, resetTurn]

/-- The step of a host's current line. -/
theorem step_of_hostAt (s : State) (no : Nat) (h : HostAgent) (a : Action) (ha : s.hostAt no h a) : step s = hostLine no a h s.usedTurn := by
  obtain ⟨hn, hh, hr, hl⟩ := ha
  simp only [step, hn, hostTurn, State.usedTurn_hosts, hh, hr, if_true, hl]

/-- The step of a host's action on an instance. -/
theorem step_of_hostReady (s s' : State) (no : Nat) (h : HostAgent) (op : Op) (hr : s.hostReady s' no h op) :
    step s = putBack no (hostAct no op (h.uses s'.focused) s') := by
  rw [step_of_hostAt s no h _ hr.1]
  simp only [hostLine, hostOn, hr.2.1, hr.2.2, if_false]

/-- Where the action runs, so does the step. -/
theorem step_of_hostReady_next (s s' u : State) (no : Nat) (h h' : HostAgent) (op : Op) (hr : s.hostReady s' no h op)
    (ho : hostAct no op (h.uses s'.focused) s' = .next (h', u)) : step s = .next (u.setHost no h') := by
  rw [step_of_hostReady s s' no h op hr, ho]; rfl

/-- Where the action is refused, so is the step. -/
theorem step_of_hostReady_refused (s s' : State) (no : Nat) (h : HostAgent) (op : Op) (r : Refusal) (hr : s.hostReady s' no h op)
    (ho : hostAct no op (h.uses s'.focused) s' = .refused r) : step s = .refused r := by
  rw [step_of_hostReady s s' no h op hr, ho]; rfl

/-- Where the action faults, so does the step. -/
theorem step_of_hostReady_fault (s s' : State) (no : Nat) (h : HostAgent) (op : Op) (r : Fault) (hr : s.hostReady s' no h op)
    (ho : hostAct no op (h.uses s'.focused) s' = .fault r) : step s = .fault r := by
  rw [step_of_hostReady s s' no h op hr, ho]; rfl

/-- Whatever a step does is one of the effects. -/
theorem step_effect (s t : State) (e : step s = .next t) : StepEffect s t := by
  unfold step at e
  split at e
  · rename_i k hn
    unfold onInstance at e
    split at e
    · cases e
    · rename_i s' hf
      have hk := (State.focus_spec _ _ _ hf).2.2.1
      subst hk
      by_cases hr : s'.dec.ctrl = ctrlReserved
      · rw [decoderTurn_of_reserved _ hr] at e; cases e
      · by_cases hb : s'.dec.ctrl = ctrlBusy
        · rw [decoderTurn_of_busy _ hb] at e; cases e
          exact .complete s' ⟨hn, hf, hb⟩
        · rw [decoderTurn_of_not_busy _ hb hr] at e; cases e
          exact .pass _ hn hf hb hr
  · rename_i k hn
    unfold onInstance at e
    split at e
    · cases e
    · rename_i s' hf
      have hk := (State.focus_spec _ _ _ hf).2.2.1
      subst hk
      cases e
      exact .reset s' ⟨hn, hf⟩
  · rename_i no hn
    unfold hostTurn at e
    split at e
    · cases e
    · rename_i h hh
      split at e
      · rename_i hrun
        split at e
        · rename_i a ha
          have hat : s.hostAt no h a := ⟨hn, hh, hrun, ha⟩
          cases a <;> simp only [hostLine] at e
          case on k op =>
            unfold hostOn at e
            split at e
            · cases e
            · rename_i s' hf
              have hk := (State.focus_spec _ _ _ hf).2.2.1
              subst hk
              split at e
              · cases e
              · rename_i hres
                cases ho : hostAct no op (h.uses s'.focused) s' with
                | next p =>
                  rw [ho] at e; cases e
                  exact .act s' p.2 no h p.1 op ⟨hat, hf, hres⟩ ho
                | fault r => rw [ho] at e; cases e
                | refused r => rw [ho] at e; cases e
          case goto line => cases e; exact .control no h _ _ hat (Or.inl ⟨line, rfl, rfl⟩)
          case abort => cases e; exact .control no h _ _ hat (Or.inr (Or.inl ⟨rfl, rfl⟩))
          case halt => cases e; exact .control no h _ _ hat (Or.inr (Or.inr (Or.inl ⟨rfl, rfl⟩)))
          case start => cases e; exact .control no h _ _ hat (Or.inr (Or.inr (Or.inr ⟨rfl, rfl⟩)))
        · rename_i ha; cases e; exact .idle no h hn hh (Or.inr ha)
      · rename_i hrun; cases e; exact .idle no h hn hh (Or.inl hrun)

/-- What a step does to instance `j`, from `d` to another. -/
inductive DecStep (s : State) (j : Nat) (d : Decoder) : Decoder → Prop
  | same : DecStep s j d d
  | complete (hn : s.nextTurn = .decoder j) (hb : d.ctrl = ctrlBusy) :
      DecStep s j d (d.complete (laneResponse { d with buf := s.buffer d.bufId }))
  | reset (hn : s.nextTurn = .reset j ∨ ∃ no h, s.hostAt no h (.on j .reset)) : DecStep s j d d.resetRegs
  | accept (no : Nat) (h : HostAgent) (o : OffsetArg) (ha : s.hostAt no h (.on j (.decode o)) ∨ s.hostAt no h (.on j (.request o)))
      (hb : d.ctrl ≠ ctrlBusy) (hr : d.ctrl ≠ ctrlReserved) (ho : o.value h < 2 ^ d.params.addrWidth) :
      DecStep s j d { d.accept (o.value h) with requester := some no }
  | waited (no : Nat) (h : HostAgent) (op : Op) (ha : s.hostAt no h (.on j op)) : DecStep s j d (d.waitedFor no)
  | release (no : Nat) (h : HostAgent) (ha : s.hostAt no h (.on j .release)) : DecStep s j d { d with borrowed := [] }
  | buffer (no : Nat) (h : HostAgent) (k n : Nat) (op : Op) (d₀ : Decoder) (ha : s.hostAt no h (.on k op)) (hop : op.changesBuffer = true)
      (h0 : s.decs[k]? = some d₀) (hs : d.bufId = d₀.bufId) (hb : d.ctrl ≠ ctrlBusy)
      (hn : ∀ d' ∈ s.decs, d'.bufId = d.bufId → n ≤ d'.params.bufCapacity) :
      DecStep s j d { d with bufLen := n }

/-- No step changes an instance's parameters or the number of its buffer (R7, R164). -/
theorem DecStep.keeps {s : State} {j : Nat} {d d' : Decoder} (h : DecStep s j d d') : d'.params = d.params ∧ d'.bufId = d.bufId := by
  cases h <;> simp

/-- What a request asks for does not depend on the instances used. -/
theorem OffsetArg.value_uses (o : OffsetArg) (h : HostAgent) (k : Nat) : o.value (h.uses k) = o.value h := by
  cases o <;> simp [OffsetArg.value]

/-- What a focused machine keeps of the one before the turn. -/
theorem State.usedTurn_focus_spec (s s' : State) (k : Nat) (h : s.usedTurn.focus k = some s') :
    s'.decs = s.decs ∧ s.decs[k]? = some s'.dec ∧ s'.focused = k ∧ s'.buffers = s.buffers ∧ s'.hosts = s.hosts ∧
      s'.turns = s.turns.tail ∧ s'.draws = s.draws := by
  obtain ⟨h1, h2, h3, h4, h5, h6, h7⟩ := State.focus_spec _ _ _ h
  exact ⟨h1, h2, h3, h4, h5, h6, h7⟩

/-- A lane in focus reads the buffer it read before. -/
theorem State.lane_of_focus (s s' : State) (hb : s'.buffers = s.buffers) : s'.lane = { s'.dec with buf := s.buffer s'.dec.bufId } := by
  simp [State.lane, State.buffer, hb]

/-- What a step does to each instance, said once. -/
theorem step_dec (s t : State) (j : Nat) (d d' : Decoder) (e : step s = .next t) (hd : s.decs[j]? = some d)
    (hd' : t.decs[j]? = some d') : DecStep s j d d' := by
  have one : ∀ (s' : State) (x : Decoder), s.usedTurn.focus s'.focused = some s' → (s'.decs.set s'.focused x)[j]? = some d' →
      (j ≠ s'.focused ∧ d' = d) ∨ (j = s'.focused ∧ s'.dec = d ∧ d' = x ∧ s'.buffers = s.buffers) := by
    intro s' x hf hx
    obtain ⟨h1, h2, _, h4, _⟩ := State.usedTurn_focus_spec _ _ _ hf
    by_cases hj : j = s'.focused
    · right
      subst hj
      rw [h2] at hd
      obtain ⟨hlt, _⟩ := List.getElem?_eq_some_iff.1 h2
      rw [h1] at hx
      rw [List.getElem?_set_self hlt] at hx
      exact ⟨rfl, Option.some.inj hd, (Option.some.inj hx).symm, h4⟩
    · left
      rw [List.getElem?_set_ne (Ne.symm hj), h1, hd] at hx
      exact ⟨hj, (Option.some.inj hx).symm⟩
  cases step_effect s t e with
  | complete s' hr =>
    obtain ⟨hn, hf, hb⟩ := hr
    simp only [State.noteError_decs, State.completed, State.decs_with_dec] at hd'
    rcases one s' _ hf hd' with ⟨_, rfl⟩ | ⟨rfl, rfl, rfl, hbu⟩
    · exact .same
    · rw [State.lane_of_focus s s' hbu]
      exact .complete hn hb
  | pass s' hn hf hb hr =>
    obtain ⟨h1, _⟩ := State.usedTurn_focus_spec _ _ _ hf
    rw [h1, hd] at hd'; cases hd'; exact .same
  | reset s' hr =>
    obtain ⟨hn, hf⟩ := hr
    simp only [State.decs_with_dec] at hd'
    rcases one s' _ hf hd' with ⟨_, rfl⟩ | ⟨rfl, rfl, rfl, _⟩
    · exact .same
    · exact .reset (Or.inl hn)
  | idle no h hn hh hi => simp only [State.usedTurn_decs, hd] at hd'; cases hd'; exact .same
  | control no h h' a ha hc => simp only [State.setHost_decs, State.usedTurn_decs, hd] at hd'; cases hd'; exact .same
  | act s' u no h h' op hr ho =>
    obtain ⟨ha, hf, hres⟩ := hr
    simp only [State.setHost_decs] at hd'
    have key := State.usedTurn_focus_spec _ _ _ hf
    cases hostAct_effect _ _ _ _ _ _ ho with
    | same => rw [key.1, hd] at hd'; cases hd'; exact .same
    | waited =>
      simp only [State.decs_with_dec] at hd'
      rcases one s' _ hf hd' with ⟨_, rfl⟩ | ⟨rfl, rfl, rfl, _⟩
      · exact .same
      · exact .waited no h op ha
    | accept o hop hb hw =>
      simp only [State.decs_with_dec, OffsetArg.value_uses] at hd' hw
      rcases one s' _ hf hd' with ⟨_, rfl⟩ | ⟨rfl, rfl, rfl, _⟩
      · exact .same
      · refine .accept no h o ?_ hb hres hw
        rcases hop with rfl | rfl
        · exact Or.inl ha
        · exact Or.inr ha
    | reset hop =>
      subst hop
      simp only [State.decs_with_dec] at hd'
      rcases one s' _ hf hd' with ⟨_, rfl⟩ | ⟨rfl, rfl, rfl, _⟩
      · exact .same
      · exact .reset (Or.inr ⟨no, h, ha⟩)
    | release hop =>
      subst hop
      simp only [State.decs_with_dec] at hd'
      rcases one s' _ hf hd' with ⟨_, rfl⟩ | ⟨rfl, rfl, rfl, _⟩
      · exact .same
      · exact .release no h ha
    | buffer m n draws hop hb hn hi hw hm =>
      simp only [State.replaceBuffer_decs, List.getElem?_map] at hd'
      have hdm : s'.decs[j]? = some d := by rw [key.1]; exact hd
      have hd2 : State.decs { s' with draws := draws } = s'.decs := rfl
      rw [hd2, hdm] at hd'
      cases hd'
      have hmem : d ∈ s'.decs := List.mem_of_getElem? hdm
      show DecStep s j d (if d.bufId = s'.dec.bufId then { d with bufLen := n } else d)
      by_cases hs : d.bufId = s'.dec.bufId
      · rw [if_pos hs]
        exact .buffer no h _ n op s'.dec ha hop key.2.1 hs ((State.sharedBusy_eq_false s').1 hb d hmem hs)
          (fun x hx hxs => (State.le_capacity s' n).1 hn x (by rw [key.1]; exact hx) (hxs.trans hs))
      · rw [if_neg hs]
        exact .same

/-- What a step leaves of the machine's shape. -/
theorem step_shape (s t : State) (e : step s = .next t) :
    t.decs.length = s.decs.length ∧ t.turns = s.turns.tail ∧ t.hosts.length = s.hosts.length ∧ t.buffers.length = s.buffers.length := by
  have len : ∀ (s' : State) (x : Decoder), s'.decs = s.decs → (State.decs { s' with dec := x }).length = s.decs.length := by
    intro s' x h
    rw [State.decs_with_dec, List.length_set, h]
  cases step_effect s t e with
  | complete s' hr =>
    obtain ⟨h1, _, _, h4, h5, h6, _⟩ := State.usedTurn_focus_spec _ _ _ hr.2.1
    refine ⟨?_, ?_, ?_, ?_⟩
    · rw [State.noteError_decs]; exact len s' _ h1
    · rw [State.noteError_turns]; exact h6
    · rw [State.noteError_length_hosts]; exact congrArg List.length h5
    · rw [State.noteError_buffers]; exact congrArg List.length h4
  | pass s' hn hf hb hr =>
    obtain ⟨h1, _, _, h4, h5, h6, _⟩ := State.usedTurn_focus_spec _ _ _ hf
    exact ⟨congrArg List.length h1, h6, congrArg List.length h5, congrArg List.length h4⟩
  | reset s' hr =>
    obtain ⟨h1, _, _, h4, h5, h6, _⟩ := State.usedTurn_focus_spec _ _ _ hr.2
    exact ⟨len s' _ h1, h6, congrArg List.length h5, congrArg List.length h4⟩
  | idle no h hn hh hi => exact ⟨rfl, rfl, rfl, rfl⟩
  | control no h h' a ha hc => exact ⟨rfl, rfl, by simp, rfl⟩
  | act s' u no h h' op hr ho =>
    obtain ⟨h1, _, _, h4, h5, h6, _⟩ := State.usedTurn_focus_spec _ _ _ hr.2.1
    have hu : u.decs.length = s'.decs.length ∧ u.turns = s'.turns ∧ u.hosts = s'.hosts ∧ u.buffers.length = s'.buffers.length := by
      cases hostAct_effect _ _ _ _ _ _ ho with
      | buffer m n draws hop hb hn hi hw hm =>
        refine ⟨?_, rfl, rfl, by simp⟩
        rw [State.replaceBuffer_decs, List.length_map]; rfl
      | same => exact ⟨rfl, rfl, rfl, rfl⟩
      | _ => exact ⟨by rw [len s' _ h1, h1], rfl, rfl, rfl⟩
    obtain ⟨u1, u2, u3, u4⟩ := hu
    refine ⟨?_, ?_, ?_, ?_⟩
    · rw [State.setHost_decs, u1, h1]
    · rw [State.setHost_turns, u2, h6]
    · rw [State.setHost_hosts, List.length_set, u3, h5]
    · rw [State.setHost_buffers, u4, h4]

/-- What a step does to the buffers: nothing, or a host's buffer change, of one buffer. -/
theorem step_buffers (s t : State) (e : step s = .next t) :
    t.buffers = s.buffers ∨
      ∃ no h k op d m, s.hostAt no h (.on k op) ∧ op.changesBuffer = true ∧ s.decs[k]? = some d ∧ d.ctrl ≠ ctrlBusy ∧
        d.bufId < s.buffers.length ∧ t.buffers = s.buffers.set d.bufId m ∧
        (Memory.wf (s.buffer d.bufId) = true → Memory.wf m = true) ∧
        (∀ c ∈ m, (∀ d' ∈ s.decs, d'.bufId = d.bufId → c.1 < d'.params.bufCapacity) ∨ c ∈ s.buffer d.bufId) := by
  cases step_effect s t e with
  | complete s' hr => left; simp [(State.usedTurn_focus_spec _ _ _ hr.2.1).2.2.2.1]
  | pass s' hn hf hb hr => left; simp [(State.usedTurn_focus_spec _ _ _ hf).2.2.2.1]
  | reset s' hr => left; simp [(State.usedTurn_focus_spec _ _ _ hr.2).2.2.2.1]
  | idle no h hn hh hi => left; rfl
  | control no h h' a ha hc => left; rfl
  | act s' u no h h' op hr ho =>
    obtain ⟨h1, h2, _, h4, _⟩ := State.usedTurn_focus_spec _ _ _ hr.2.1
    cases hostAct_effect _ _ _ _ _ _ ho with
    | buffer m n draws hop hb hn hi hw hm =>
      right
      have hbuf : s'.buffer s'.dec.bufId = s.buffer s'.dec.bufId := by simp [State.buffer, h4]
      simp only [State.lane_buf, hbuf] at hw hm
      refine ⟨no, h, _, op, s'.dec, m, hr.1, hop, h2, (State.sharedBusy_eq_false s').1 hb _ s'.dec_mem rfl, by rw [← h4]; exact hi, ?_, hw, ?_⟩
      · simp [h4]
      · intro c hc
        refine (hm c hc).imp_left (fun hlt d' hd' hs => ?_)
        have := (State.le_capacity s' _).1 le_rfl d' (by rw [h1]; exact hd') hs
        omega
    | _ => left; simp [h4]

/-- What a step does to host `no`: nothing, its own action, or the mark of a structural error (R139). -/
theorem step_host (s t : State) (no : Nat) (h h' : HostAgent) (e : step s = .next t) (hh : s.hosts[no]? = some h)
    (hh' : t.hosts[no]? = some h') :
    (s.nextTurn ≠ .host no ∧ (h' = h ∨ h' = { h with structural := true } ∧ ∃ s', s.decoderReady s' ∧ s'.dec.requester = some no ∧
        structuralCode (laneResponse s'.lane).status = true)) ∨
      (s.nextTurn = .host no ∧ h.idle ∧ h' = h) ∨
      (s.nextTurn = .host no ∧ ∃ a, s.hostAt no h a ∧
        ((∃ line, a = .goto line ∧ h' = h.goto line) ∨ (a = .abort ∧ h' = h.abort) ∨ (a = .halt ∧ h' = h.halt) ∨
          (a = .start ∧ h' = h.start) ∨
          ∃ s' op u, a = .on s'.focused op ∧ s.hostReady s' no h op ∧ hostAct no op (h.uses s'.focused) s' = .next (h', u))) := by
  have put : ∀ (u : State) (no₀ : Nat) (x : HostAgent), u.hosts = s.hosts → (u.setHost no₀ x).hosts[no]? = some h' →
      (no ≠ no₀ ∧ h' = h) ∨ (no = no₀ ∧ h' = x) := by
    intro u no₀ x hu hx
    rw [State.setHost_hosts, hu] at hx
    by_cases en : no = no₀
    · subst en
      obtain ⟨hlt, _⟩ := List.getElem?_eq_some_iff.1 hh
      rw [List.getElem?_set_self hlt] at hx
      exact Or.inr ⟨rfl, (Option.some.inj hx).symm⟩
    · rw [List.getElem?_set_ne (Ne.symm en), hh] at hx
      exact Or.inl ⟨en, (Option.some.inj hx).symm⟩
  cases step_effect s t e with
  | complete s' hr =>
    left
    have h5 := (State.usedTurn_focus_spec _ _ _ hr.2.1).2.2.2.2.1
    refine ⟨by rw [hr.1]; simp, ?_⟩
    rw [State.noteError_hosts, State.completed_hosts, h5, hh] at hh'
    simp only [Option.map_some, Option.some.injEq] at hh'
    by_cases hc : (s'.completed (laneResponse s'.lane)).dec.requester = some no ∧
        structuralCode (s'.completed (laneResponse s'.lane)).dec.resp.status = true
    · rw [if_pos hc] at hh'; exact Or.inr ⟨hh'.symm, s', hr, hc⟩
    · rw [if_neg hc] at hh'; exact Or.inl hh'.symm
  | pass s' hn hf hb hr =>
    left
    have h5 := (State.usedTurn_focus_spec _ _ _ hf).2.2.2.2.1
    rw [h5, hh] at hh'
    exact ⟨by rw [hn]; simp, Or.inl (Option.some.inj hh').symm⟩
  | reset s' hr =>
    left
    have h5 := (State.usedTurn_focus_spec _ _ _ hr.2).2.2.2.2.1
    rw [show ({ s' with dec := s'.dec.resetRegs } : State).hosts = s'.hosts from rfl, h5, hh] at hh'
    exact ⟨by rw [hr.1]; simp, Or.inl (Option.some.inj hh').symm⟩
  | idle no₀ h₀ hn hh₀ hi =>
    rw [State.usedTurn_hosts, hh] at hh'
    by_cases en : no = no₀
    · subst en
      rw [hh] at hh₀; cases hh₀
      exact Or.inr (Or.inl ⟨hn, hi, (Option.some.inj hh').symm⟩)
    · exact Or.inl ⟨by rw [hn]; simpa using Ne.symm en, Or.inl (Option.some.inj hh').symm⟩
  | control no₀ h₀ h₁ a ha hc =>
    rcases put s.usedTurn no₀ h₁ rfl hh' with ⟨en, rfl⟩ | ⟨rfl, rfl⟩
    · exact Or.inl ⟨by rw [ha.1]; simpa using Ne.symm en, Or.inl rfl⟩
    · have : h₀ = h := by have := ha.2.1; rw [hh] at this; exact (Option.some.inj this).symm
      subst this
      refine Or.inr (Or.inr ⟨ha.1, a, ha, ?_⟩)
      rcases hc with h1 | h1 | h1 | h1
      · exact Or.inl h1
      · exact Or.inr (Or.inl h1)
      · exact Or.inr (Or.inr (Or.inl h1))
      · exact Or.inr (Or.inr (Or.inr (Or.inl h1)))
  | act s' u no₀ h₀ h₁ op hr ho =>
    have h5 := (State.usedTurn_focus_spec _ _ _ hr.2.1).2.2.2.2.1
    have hu : u.hosts = s'.hosts := by cases hostAct_effect _ _ _ _ _ _ ho <;> rfl
    rcases put u no₀ h₁ (hu.trans h5) hh' with ⟨en, rfl⟩ | ⟨rfl, rfl⟩
    · exact Or.inl ⟨by rw [hr.1.1]; simpa using Ne.symm en, Or.inl rfl⟩
    · have : h₀ = h := by have := hr.1.2.1; rw [hh] at this; exact (Option.some.inj this).symm
      subst this
      exact Or.inr (Or.inr ⟨hr.1.1, _, hr.1, Or.inr (Or.inr (Or.inr (Or.inr ⟨s', op, u, rfl, hr, ho⟩)))⟩)

end Sys2Proof.Machine
end

