-- ==== Sys2Proof/Tests/Slice0.lean ====
section
/-!
SUPPORT. Tests. Expected values come from spec/95_test_vectors.md (named by row: S, V, K, E, H, P) or from the encodings of spec/30_encoding.md, by hand.
The theorems `test_witness_…` show, for each statement that has hypotheses, a state and operands that meet all of them, at a boundary of each clause.
-/

namespace Sys2Proof.Machine

/-! ## Helpers -/

/-- Parameters with a FRAME_MAX, a capacity and a payload mode. -/
def testParams (fm : Length) (cap : Nat) (mode : PayloadMode) : Params :=
  { Params.default with frameMax := fm, bufCapacity := cap, payloadMode := mode }

/-- An instance in a controller state with its buffer and a request offset. -/
def testLane (p : Params) (ctrl : BitVec 2) (o : Nat) (bs : List Byte) : Lane :=
  { Decoder.initial p 0 with ctrl := ctrl, reqOffset := o, bufLen := bs.length, buf := Memory.writeList [] 0 bs }

/-- A machine of one instance and one host. -/
def testMachine (l : Lane) (h : HostAgent) (turns : List Turn) : State :=
  { left := [], dec := { l.toDecoder with bufId := 0 }, right := [], buffers := [l.buf], hosts := [h], turns := turns, draws := 0 }

/-- One with a turn listed. -/
def testState (l : Lane) (t : Turn) : State := testMachine l HostAgent.initial [t]

/-- The same machine after its turn is taken. -/
def testTaken (l : Lane) : State := testMachine l HostAgent.initial []

/-- A host that stands at an action on instance 0. -/
def testHost (op : Op) : HostAgent := { HostAgent.initial with program := [.on 0 op] }

/-- A machine whose host takes that action next. -/
def testAct (l : Lane) (op : Op) : State := testMachine l (testHost op) [.host 0]

/-- The same machine after its turn is taken. -/
def testActed (l : Lane) (op : Op) : State := testMachine l (testHost op) []

/-- The machine's first host. -/
def testH (t : State) : HostAgent := t.hosts.getD 0 HostAgent.initial

/-- A BUSY instance with the default FRAME_MAX. -/
def testBusy (bs : List Byte) (o : Nat) : Lane :=
  testLane (testParams 0xFFFFFFFF 64 .copy) ctrlBusy o bs

/-- The response of one step of the instance on a buffer, an offset and a FRAME_MAX. -/
def testDecode (bs : List Byte) (o : Nat) (fm : Length) : Option Response :=
  completeResponse (testLane (testParams fm 64 .copy) ctrlBusy o bs)

/-- The heartbeat frame of S1. -/
def testHeartbeat : List Byte := [0x08, 0x00, 0x00, 0x00, 0x00, 0x00, 0x00, 0xCE]

/-- The method frame of S2. -/
def testMethod : List Byte := [0x01, 0x00, 0x01, 0x00, 0x00, 0x00, 0x04, 0x00, 0x0A, 0x00, 0x0B, 0xCE]

/-- An instance in DONE that holds the response V7. -/
def testDone : Lane :=
  { testLane (testParams 0xFFFFFFFF 64 .copy) ctrlDone 0 testHeartbeat with
      respValid := 1,
      resp := { status := 0, type := 0x08, dispatch := 0b1000, channel := 0, length := 0, payloadStart := 7, consumed := 8, errByte := 0,
                need := 0, payload := [] } }

/-- An instance in DONE that holds the response V1. -/
def testDoneError : Lane :=
  { testLane (testParams 0xFFFFFFFF 64 .copy) ctrlDone 0 [] with
      respValid := 1,
      resp := { status := 1, type := 0, dispatch := 0, channel := 0, length := 0, payloadStart := 0, consumed := 0, errByte := 0, need := 7,
                payload := [] } }

/-- What a check finds in the next state; false where there is none. -/
def testNext (o : Host.Outcome State Fault Refusal) (check : State → Bool) : Bool :=
  match o with
  | .next t => check t
  | .fault _ => false
  | .refused _ => false

/-- The refusal of an outcome. -/
def testRefusal (o : Host.Outcome State Fault Refusal) : Option Refusal :=
  match o with
  | .next _ => none
  | .fault _ => none
  | .refused r => some r

/-- The fault of an outcome. -/
def testFault (o : Host.Outcome State Fault Refusal) : Option Fault :=
  match o with
  | .next _ => none
  | .fault r => some r
  | .refused _ => none

/-! ## WellFormed refuses a tag of another row, for each of its checks -/

theorem test_wellFormed_refuses :
    (Instr.unknown04 0x08 0 0).wellFormed = false ∧ (Instr.unknown0A 0x09 0 0).wellFormed = false ∧
      (Instr.unknown0C 0x0B 0 0).wellFormed = false ∧ (Instr.unknown10 0x20 0 0).wellFormed = false ∧
      (Instr.unknown20 0x1F 0 0).wellFormed = false ∧ (Instr.unknown40 0x80 0 0).wellFormed = false ∧
      (Instr.unknown80 0x7F 0 0).wellFormed = false := by decide

theorem test_witness_DecodeOfEncodeGivesInstruction :
    (Instr.method 0xFFFF 0xFFFFFFFF).wellFormed = true ∧ (Instr.header 0 0).wellFormed = true ∧ (Instr.body 0 0).wellFormed = true ∧
      (Instr.heartbeat 0 0).wellFormed = true ∧ (Instr.unknown00 0 0).wellFormed = true ∧
      (Instr.unknown04 0x07 0 0).wellFormed = true ∧ (Instr.unknown09 0 0).wellFormed = true ∧
      (Instr.unknown0A 0x0B 0 0).wellFormed = true ∧ (Instr.unknown0C 0x0C 0 0).wellFormed = true ∧
      (Instr.unknown10 0x1F 0 0).wellFormed = true ∧ (Instr.unknown20 0x3F 0 0).wellFormed = true ∧
      (Instr.unknown40 0x40 0 0).wellFormed = true ∧ (Instr.unknown80 0xFF 0 0).wellFormed = true := by decide

/-! ## Decoding: one header written out for each constructor (30_encoding R64, opcode_table.json) -/

theorem test_decode_method : decode [0x01, 0x00, 0x01, 0x00, 0x00, 0x00, 0x04] = .ok (.method 1 4, []) := by decide
theorem test_decode_header : decode [0x02, 0xFF, 0xFF, 0x00, 0x00, 0x00, 0x01, 0xAA] = .ok (.header 65535 1, [0xAA]) := by decide
theorem test_decode_body : decode [0x03, 0x12, 0x34, 0x00, 0x00, 0x10, 0x01] = .ok (.body 4660 4097, []) := by decide
theorem test_decode_heartbeat : decode [0x08, 0x00, 0x00, 0xFF, 0xFF, 0xFF, 0xFF] = .ok (.heartbeat 0 4294967295, []) := by decide
theorem test_decode_unknown00 : decode [0x00, 0x00, 0x02, 0x00, 0x00, 0x00, 0x03] = .ok (.unknown00 2 3, []) := by decide
theorem test_decode_unknown04 : decode [0x07, 0x01, 0x00, 0x01, 0x00, 0x00, 0x00] = .ok (.unknown04 0x07 256 16777216, []) := by decide
theorem test_decode_unknown09 : decode [0x09, 0x00, 0x00, 0x00, 0x01, 0x00, 0x00] = .ok (.unknown09 0 65536, []) := by decide
theorem test_decode_unknown0A : decode [0x0B, 0x00, 0x00, 0x00, 0x00, 0x00, 0x00] = .ok (.unknown0A 0x0B 0 0, []) := by decide
theorem test_decode_unknown0C : decode [0x0F, 0x00, 0x00, 0x00, 0x00, 0x00, 0x00] = .ok (.unknown0C 0x0F 0 0, []) := by decide
theorem test_decode_unknown10 : decode [0x18, 0x00, 0x00, 0x00, 0x00, 0x00, 0x00] = .ok (.unknown10 0x18 0 0, []) := by decide
theorem test_decode_unknown20 : decode [0x3F, 0x00, 0x00, 0x00, 0x00, 0x00, 0x00] = .ok (.unknown20 0x3F 0 0, []) := by decide
theorem test_decode_unknown40 : decode [0x41, 0x4D, 0x51, 0x50, 0x00, 0x00, 0x09] = .ok (.unknown40 0x41 0x4D51 0x50000009, []) := by decide
theorem test_decode_unknown80 : decode [0xCE, 0x08, 0x00, 0x00, 0x00, 0x00, 0x00] = .ok (.unknown80 0xCE 2048 0, []) := by decide
theorem test_decode_short : decode [0x01, 0x00, 0x01, 0x00, 0x00, 0x00] = .error .shortHeader := by decide

/-- The host's table word of one byte. -/
theorem test_decodeTableWord : decodeTableWord 8 0x03 = some (.body 0 0) ∧ decodeTableWord 8 0x80 = some (.unknown80 0x80 0 0) := by decide

/-! ## The instructions, one Complete step each -/

theorem test_method_S2 : testDecode testMethod 0 0xFFFFFFFF =
    some { status := 0, type := 0x01, dispatch := 0b0001, channel := 1, length := 4, payloadStart := 7, consumed := 12, errByte := 0x00,
           need := 0, payload := [0x00, 0x0A, 0x00, 0x0B] } := by decide

theorem test_method_V23 : testDecode [0x01, 0x00, 0x01, 0x00, 0x00, 0x00, 0x04, 0x00, 0x0A, 0x00, 0x0B, 0x00] 0 0xFFFFFFFF =
    some (Response.error .invalidEnd 0x00 0) := by decide

theorem test_header_V12 : testDecode [0x02, 0xFF, 0xFF, 0x00, 0x00, 0x00, 0x01, 0xAA, 0xCE] 0 0xFFFFFFFF =
    some { status := 0, type := 0x02, dispatch := 0b0010, channel := 65535, length := 1, payloadStart := 7, consumed := 9, errByte := 0x00,
           need := 0, payload := [0xAA] } := by decide

theorem test_body_V13 : testDecode [0x03, 0x12, 0x34, 0x00, 0x00, 0x00, 0x02, 0xCE, 0xCE, 0xCE] 0 0xFFFFFFFF =
    some { status := 0, type := 0x03, dispatch := 0b0100, channel := 4660, length := 2, payloadStart := 7, consumed := 10, errByte := 0x00,
           need := 0, payload := [0xCE, 0xCE] } := by decide

theorem test_body_V14 : testDecode [0x03, 0x00, 0x05, 0xFF, 0xFF, 0xFF, 0xFF, 0xCE] 0 0xFFFFFFFF =
    some (Response.error .incomplete 0x00 4294967303) := by decide

theorem test_heartbeat_V18 : testDecode ([0xAA, 0xBB] ++ testHeartbeat) 2 0xFFFFFFFF =
    some { status := 0, type := 0x08, dispatch := 0b1000, channel := 0, length := 0, payloadStart := 9, consumed := 8, errByte := 0x00,
           need := 0, payload := [] } := by decide

theorem test_heartbeat_V25 : (testDecode [0x08, 0x00, 0x00, 0x00, 0x00, 0x00, 0x01, 0x00, 0xCE] 0 0xFFFFFFFF).map (fun r => (r.status, r.payload)) =
    some (0, [0x00]) := by decide

theorem test_unknown00_V5 : testDecode [0x00, 0x00, 0x00, 0x00, 0x00, 0x00, 0x00, 0xCE] 0 0xFFFFFFFF =
    some (Response.error .unknownType 0x00 0) := by decide

theorem test_unknown04_V24 : testDecode [0x05, 0x00, 0x00, 0x00, 0x00, 0x00, 0x10] 0 0xFFFFFFFF =
    some (Response.error .unknownType 0x05 0) := by decide

theorem test_unknown09_K7 : testDecode [0x09, 0x00, 0x00, 0x00, 0x00, 0x00, 0x00, 0xCE] 0 0xFFFFFFFF =
    some (Response.error .unknownType 0x09 0) := by decide

theorem test_unknown0A_K7 : testDecode [0x0A, 0x00, 0x00, 0x00, 0x00, 0x00, 0x00, 0xCE] 0 0xFFFFFFFF =
    some (Response.error .unknownType 0x0A 0) := by decide

theorem test_unknown0C_K7 : testDecode [0x0E, 0x00, 0x00, 0x00, 0x00, 0x00, 0x00, 0xCE] 0 0xFFFFFFFF =
    some (Response.error .unknownType 0x0E 0) := by decide

theorem test_unknown10_K7 : testDecode [0x10, 0x00, 0x00, 0x00, 0x00, 0x00, 0x00, 0xCE] 0 0xFFFFFFFF =
    some (Response.error .unknownType 0x10 0) := by decide

theorem test_unknown20_K7 : testDecode [0x20, 0x00, 0x00, 0x00, 0x00, 0x00, 0x00, 0xCE] 0 0xFFFFFFFF =
    some (Response.error .unknownType 0x20 0) := by decide

theorem test_unknown40_K8 : testDecode [0x41, 0x00, 0x00, 0x00, 0x00, 0x00, 0x00, 0xCE] 0 0xFFFFFFFF =
    some (Response.error .unknownType 0x41 0) := by decide

theorem test_unknown80_V17 : testDecode [0xFF, 0x00, 0x00, 0xFF, 0xFF, 0xFF, 0xFF] 0 0 =
    some (Response.error .unknownType 0xFF 0) := by decide

/-! ## The checks before an instruction, FRAME_MAX and the order of the checks -/

theorem test_offset_V20 : testDecode testHeartbeat 9 0xFFFFFFFF = some (Response.error .offsetOutOfRange 0x00 0) := by decide
theorem test_offset_V19 : testDecode testHeartbeat 8 0xFFFFFFFF = some (Response.error .incomplete 0x00 7) := by decide
theorem test_short_V3 : testDecode [0xFF, 0x00, 0x00, 0x00, 0x00, 0x00] 0 0xFFFFFFFF = some (Response.error .incomplete 0x00 7) := by decide
theorem test_short_V8 : testDecode [0x08, 0x00, 0x00, 0x00, 0x00, 0x00, 0x00] 0 0xFFFFFFFF = some (Response.error .incomplete 0x00 8) := by decide
theorem test_frameMax_V15 : testDecode [0x03, 0x00, 0x05, 0x00, 0x00, 0x10, 0x01] 0 4096 = some (Response.error .frameTooLarge 0x00 0) := by decide
theorem test_frameMax_V16 : testDecode [0x03, 0x00, 0x05, 0x00, 0x00, 0x10, 0x00] 0 4096 = some (Response.error .incomplete 0x00 4104) := by decide

/-! ## The reference encoder (95_test_vectors §2.3) -/

theorem test_encodeRef_E1 : encodeRef 0x08 0 [] = some testHeartbeat := by decide
theorem test_encodeRef_E2 : encodeRef 0x01 1 [0x00, 0x0A, 0x00, 0x0B] = some testMethod := by decide
theorem test_encodeRef_E3 : encodeRef 0x04 0 [] = none := by decide

/-! ## The controller and the host (95_test_vectors §2.4) -/

/-- H1: `BUF :=`. -/
theorem test_host_write :
    testNext (step (testAct (testLane Params.default ctrlIdle 0 []) (.write testHeartbeat)))
      (fun t => decide ((t.dec.ctrl, t.dec.bufLen, t.lane.bytes, (testH t).line) = (0b00, 8, testHeartbeat, 2))) := by decide

/-- H2: Accept(8) from DONE clears the response. -/
theorem test_host_decode :
    testNext (step (testAct testDone (.decode (.number 8))))
      (fun t => decide ((t.dec.ctrl, t.dec.respValid, t.dec.reqOffset, t.dec.resp) = (0b01, 0, 8, Response.zero))) := by decide

/-- H5: ADVANCE after V7 hands the frame on. -/
theorem test_host_advance :
    testNext (step (testAct testDone .advance))
      (fun t => decide ((testH t).cur = 8 ∧ (testH t).delivered = [{ type := .heartbeat, channel := 0, payload := [] }])) := by decide

/-- H6: ADVANCE after an error response moves nothing. -/
theorem test_host_advance_error :
    testNext (step (testAct testDoneError .advance)) (fun t => decide ((testH t).cur = 0 ∧ (testH t).delivered = [])) := by decide

/-- The instance of P5 at line 5. -/
def testP5 : Lane :=
  { testDone with bufLen := 16, buf := Memory.writeList [] 0 (testHeartbeat ++ testMethod.take 8) }

/-- P5, line 5: DROP 8. -/
theorem test_host_drop :
    testNext (step (testMachine testP5 { testHost (.drop 8) with cur := 8 } [.host 0]))
      (fun t => decide ((t.lane.bytes, t.dec.bufLen, (testH t).cur, t.dec.resp) = (testMethod.take 8, 8, 0, testDone.resp))) := by decide

/-- A machine with an empty buffer whose host has its cursor at 12 and drops 8. -/
def testBeyond (turns : List Turn) : State :=
  testMachine (testLane Params.default ctrlIdle 0 []) { testHost (.drop 8) with cur := 12 } turns

/-- R125: a drop of `k ≤ cur` bytes of which BUF_LEN holds fewer, as after a Reset, runs and re-bases the cursor. -/
theorem test_host_drop_beyond :
    ∃ t, step (testBeyond [.host 0]) = .next t ∧ (testH t).cur = 4 :=
  ⟨_, step_of_hostReady_next _ (testBeyond []) _ 0 { testHost (.drop 8) with cur := 12 } _ (.drop 8) ⟨⟨rfl, rfl, rfl, rfl⟩, rfl, by decide⟩
    ((hostDrop_eq_next _ _ _ _ 8).2 ⟨by decide, by decide, Or.inr ⟨by decide, (dropBeyond_eq_next _ _ _ _ 8).2 ⟨rfl, by decide, by decide, by decide, rfl⟩⟩⟩), rfl⟩

/-- The same where a payload window at index 8 is on loan, which the drop of `BUF[0 .. 8)` does not discard (R131). -/
theorem test_host_drop_beyond_below_window :
    let b := fun turns => testMachine { testLane Params.default ctrlIdle 0 [] with borrowed := [{ start := 8, len := 2 }] }
      { testHost (.drop 8) with cur := 12 } turns
    ∃ t, step (b [.host 0]) = .next t ∧ (testH t).cur = 4 :=
  ⟨_, step_of_hostReady_next _ (testMachine { testLane Params.default ctrlIdle 0 [] with borrowed := [{ start := 8, len := 2 }] }
      { testHost (.drop 8) with cur := 12 } []) _ 0 { testHost (.drop 8) with cur := 12 } _ (.drop 8) ⟨⟨rfl, rfl, rfl, rfl⟩, rfl, by decide⟩
    ((hostDrop_eq_next _ _ _ _ 8).2 ⟨by decide, by decide, Or.inr ⟨by decide, (dropBeyond_eq_next _ _ _ _ 8).2 ⟨rfl, by decide, by decide, by decide, rfl⟩⟩⟩), rfl⟩

/-- H3: Reset while BUSY. -/
theorem test_reset_busy :
    testNext (step (testState (testBusy testHeartbeat 0) (.reset 0)))
      (fun t => decide ((t.dec.ctrl, t.dec.respValid, t.dec.bufLen) = (0b00, 0, 0))) := by decide

/-- R138, R125 and the host's other limits: the steps that do not exist, each by its name. -/
theorem test_host_refusals :
    testRefusal (step (testAct (testBusy [] 0) (.request .cursor))) = some .requestWhileBusy ∧
      testRefusal (step (testAct (testBusy [] 0) (.append [0x00]))) = some .bufferChangeWhileBusy ∧
      testRefusal (step (testAct testDone (.append (List.replicate 57 0x00)))) = some .overCapacity ∧
      testRefusal (step (testAct { testDone with borrowed := [{ start := 7, len := 1 }] } (.write testHeartbeat))) = some .borrowedWindow ∧
      testRefusal (step (testAct testDone (.request (.number 128)))) = some .offsetTooWide ∧
      testRefusal (step (testAct testDone (.drop 1))) = some .dropNotConsumed ∧
      testRefusal (step (testAct (testBusy [] 0) .advance)) = some .advanceNotEnabled ∧
      testRefusal (step (testAct (testLane Params.default ctrlIdle 0 []) .wait)) = some .waitNotEnabled ∧
      testRefusal (step (testAct testDone (.readAt 14))) = some .noSuchRegister ∧
      testRefusal (step (testState testDone (.reset 1))) = some .noSuchInstance ∧
      testRefusal (step (testState testDone (.host 1))) = some .noSuchHost := by decide

/-- The reserved codes (R159). -/
theorem test_reserved_faults :
    testFault (step (testState { testDone with ctrl := ctrlReserved } (.decoder 0))) = some .reservedCtrlState ∧
      testFault (step (testAct { testDone with ctrl := ctrlReserved } .wait)) = some .reservedCtrlState ∧
      testFault (step (testAct { testDone with resp := { testDone.resp with status := 6 } } .advance)) = some .reservedStatus := by
  decide

/-! ## Two instances, of one buffer or of two (R44, R128), and the end of a run (R139) -/

/-- Instance 0 in DONE, instance 1 in controller state `c`, given buffer `b`; the host stands at action `a`. -/
def testTwo (c : BitVec 2) (b : Nat) (a : Action) (t : Turn) : State :=
  { left := [], dec := testDone.toDecoder,
    right := [{ (testLane (testParams 0xFFFFFFFF 16 .copy) c 0 testMethod).toDecoder with bufId := b, requester := some 0 }],
    buffers := [testDone.buf, Memory.writeList [] 0 testMethod], hosts := [{ HostAgent.initial with program := [a] }], turns := [t], draws := 0 }

/-- R44: a write reaches both instances of a shared buffer, and is no step while either is BUSY or beyond the capacity of either. -/
theorem test_shared_buffer :
    testNext (step (testTwo ctrlIdle 0 (.on 0 (.write [0xAA])) (.host 0)))
        (fun t => decide (t.decs.map (fun d => d.bufLen) = [1, 1] ∧ t.buffer 1 = Memory.writeList [] 0 testMethod)) ∧
      testRefusal (step (testTwo ctrlBusy 0 (.on 0 (.write [0xAA])) (.host 0))) = some .bufferChangeWhileBusy ∧
      testRefusal (step (testTwo ctrlIdle 0 (.on 0 (.write (List.replicate 17 0xAA))) (.host 0))) = some .overCapacity := by decide

/-- R128: while its request on instance 1 is BUSY, the host writes the buffer of instance 0. -/
theorem test_other_instance :
    testNext (step (testTwo ctrlBusy 1 (.on 0 (.write [0xAA])) (.host 0)))
      (fun t => decide (t.decs.map (fun d => d.bufLen) = [1, 12] ∧ t.decs.map (fun d => d.ctrl) = [ctrlDone, ctrlBusy])) := by decide

/-- R139: INVALID_END marks the host that requested; ABORT then ends a failed run; a run is not over while an instance that it used is BUSY. -/
theorem test_failed_run :
    testNext (step { testMachine { testBusy (testMethod.take 11 ++ [0x00]) 0 with requester := some 0 } HostAgent.initial [] with turns := [.decoder 0] })
        (fun t => decide (t.dec.resp.status = 3) && (testH t).structural) ∧
      testNext (step (testMachine testDone { HostAgent.initial with program := [.abort], structural := true } [.host 0]))
        (fun t => t.runFailed (testH t)) ∧
      testNext (step (testMachine (testBusy [] 0) { HostAgent.initial with program := [.halt], used := [0] } [.host 0]))
        (fun t => !t.runOver (testH t)) := by decide

/-! ## Witnesses: encoding and the step -/

theorem test_witness_EncodeOfDecodeGivesBytes :
    decode (testMethod) = .ok (.method 1 4, [0x00, 0x0A, 0x00, 0x0B, 0xCE]) := by decide

theorem test_witness_DecodeNeedsSevenBytes : (testHeartbeat.take 6).length < 7 ∧ 7 ≤ (testHeartbeat.take 7).length := by decide

theorem test_witness_HeaderFieldsAreBigEndian : (testBusy (testHeartbeat.take 7) 0).reqOffset + 7 ≤ (testBusy (testHeartbeat.take 7) 0).bufLen := by
  decide

theorem test_witness_TableWordIsFetchedAndRun :
    State.reset.dec.bufId < State.reset.buffers.length ∧ Memory.wf (State.reset.buffer State.reset.dec.bufId) = true := by decide

/-- Instance 1 exists and instance 2 does not, host 1 does not; an instance in DONE has the turn, and a host that has halted. -/
theorem test_witness_TurnBringsInstanceIntoFocus :
    (testTwo ctrlIdle 1 .halt (.decoder 2)).decs[1]?.isSome = true ∧ (testTwo ctrlIdle 1 .halt (.decoder 2)).decs[2]? = none ∧
      (testTwo ctrlIdle 1 .halt (.decoder 2)).nextTurn = .decoder 2 ∧ (testTwo ctrlIdle 1 .halt (.reset 2)).nextTurn = .reset 2 ∧
      (testTwo ctrlIdle 1 (.on 2 .wait) (.host 0)).hostAt 0 { HostAgent.initial with program := [.on 2 .wait] } (.on 2 .wait) ∧
      (testTwo ctrlIdle 1 .halt (.host 1)).hosts[1]? = none ∧ (testTwo ctrlIdle 1 .halt (.host 1)).nextTurn = .host 1 ∧
      (testState testDone (.decoder 0)).decs[0]? = some testDone.toDecoder ∧ testDone.ctrl = ctrlDone ∧
      (testState testDone (.decoder 0)).nextTurn = .decoder 0 ∧ (testState testDone (.host 0)).hosts[0]? = some HostAgent.initial ∧
      HostAgent.initial.idle ∧ (testState testDone (.host 0)).nextTurn = .host 0 :=
  ⟨by decide, by decide, by decide, by decide, ⟨rfl, rfl, rfl, rfl⟩, by decide, by decide, by decide, by decide, by decide, by decide,
    Or.inr rfl, by decide⟩

theorem test_witness_StepRunsDecodedInstruction :
    (testState (testBusy testMethod 0) (.decoder 0)).decoderReady (testTaken (testBusy testMethod 0)) ∧
      (testBusy testMethod 0).reqOffset + 7 ≤ (testBusy testMethod 0).bufLen ∧
      decode (Memory.slice (testBusy testMethod 0).buf 0 7) = .ok (.method 1 4, []) :=
  ⟨⟨rfl, rfl, rfl⟩, by decide, by decide⟩

theorem test_witness_OffsetBeyondBufferIsReported :
    ((testState (testBusy [0x08] 2) (.decoder 0)).decoderReady (testTaken (testBusy [0x08] 2)) ∧ (testBusy [0x08] 2).bufLen < 2) ∧
      ((testState (testBusy [0x08] 1) (.decoder 0)).decoderReady (testTaken (testBusy [0x08] 1)) ∧ (testBusy [0x08] 1).bufLen = 1) :=
  ⟨⟨⟨rfl, rfl, rfl⟩, by decide⟩, ⟨⟨rfl, rfl, rfl⟩, by decide⟩⟩

theorem test_witness_ShortHeaderIsIncomplete :
    (testState (testBusy (testHeartbeat.take 6) 0) (.decoder 0)).decoderReady (testTaken (testBusy (testHeartbeat.take 6) 0)) ∧
      (testBusy (testHeartbeat.take 6) 0).bufLen - 0 < 7 :=
  ⟨⟨rfl, rfl, rfl⟩, by decide⟩

theorem test_witness_ErrorResponseRegisters : (testTaken (testBusy [] 0)).dec.ctrl = ctrlBusy ∧ Status.incomplete ≠ .ok := by decide

/-! ## Witnesses: the instructions -/

/-- `L = FRAME_MAX` and the end byte is the buffer's last. -/
theorem test_witness_KnownFrameSuccessResponse :
    let l := testLane (testParams 4 64 .copy) ctrlBusy 0 testMethod
    l.ctrl = ctrlBusy ∧ (4 : Length).toNat ≤ l.params.frameMax.toNat ∧ l.reqOffset + 7 + 4 + 1 = l.bufLen ∧ Memory.read l.buf 11 = 0xCE := by
  decide

theorem test_witness_LengthAboveFrameMaxIsTooLarge :
    let l := testLane (testParams 3 64 .copy) ctrlBusy 0 testMethod
    l.ctrl = ctrlBusy ∧ l.params.frameMax.toNat < (4 : Length).toNat := by decide

/-- Only the end byte is missing. -/
theorem test_witness_ShortPayloadIsIncomplete :
    let l := testLane (testParams 4 64 .copy) ctrlBusy 0 (testMethod.take 11)
    l.ctrl = ctrlBusy ∧ (4 : Length).toNat ≤ l.params.frameMax.toNat ∧ l.bufLen - l.reqOffset - 7 < (4 : Length).toNat + 1 := by decide

theorem test_witness_WrongEndByteIsInvalidEnd :
    let l := testLane (testParams 4 64 .copy) ctrlBusy 0 (testMethod.take 11 ++ [0xCF])
    l.ctrl = ctrlBusy ∧ (4 : Length).toNat ≤ l.params.frameMax.toNat ∧ l.reqOffset + 7 + 4 + 1 ≤ l.bufLen ∧ Memory.read l.buf 11 ≠ 0xCE := by
  decide

theorem test_witness_UnknownRowsReportTag : (testTaken (testBusy [] 0)).dec.ctrl = ctrlBusy := by decide

/-- Tag 0x09, the first after a legal one. -/
theorem test_witness_IllegalTagIsReportedFromHeader :
    let l := testBusy [0x09, 0x00, 0x00, 0x00, 0x00, 0x00, 0x00] 0
    (testState l (.decoder 0)).decoderReady (testTaken l) ∧ l.reqOffset + 7 ≤ l.bufLen ∧ Memory.read l.buf l.reqOffset ≠ 0x01 ∧
      Memory.read l.buf l.reqOffset ≠ 0x02 ∧ Memory.read l.buf l.reqOffset ≠ 0x03 ∧ Memory.read l.buf l.reqOffset ≠ 0x08 :=
  ⟨⟨rfl, rfl, rfl⟩, by decide, by decide, by decide, by decide, by decide⟩

/-- A COPY and a BORROW instance complete; the second lends its window. -/
theorem test_witness_InstructionFrame :
    (testNext (exec (.method 1 4) (testTaken (testLane (testParams 4 64 .copy) ctrlBusy 0 testMethod)))
      (fun t => decide (t.dec.borrowed = []))) ∧
      (testNext (exec (.method 1 4) (testTaken (testLane (testParams 4 64 .borrow) ctrlBusy 0 testMethod)))
      (fun t => decide (t.dec.borrowed = [{ start := 7, len := 4 }]))) := by decide

theorem test_witness_EveryInstructionCompletesExactlyWhenBusy :
    (testTaken (testBusy [] 0)).dec.ctrl = ctrlBusy ∧ (testTaken testDone).dec.ctrl ≠ ctrlBusy ∧
      testRefusal (exec (.body 0 0) (testTaken testDone)) = some .completeNotEnabled := by decide

/-- `L = 0` and `L = 4`. -/
theorem test_witness_ConsumedAndPayloadOfSuccess :
    (testNext (exec (.heartbeat 0 0) (testTaken (testBusy testHeartbeat 0)))
      (fun t => decide (t.dec.resp.status = Status.ok.code))) ∧
      (testNext (exec (.method 1 4) (testTaken (testBusy testMethod 0)))
      (fun t => decide (t.dec.resp.status = Status.ok.code))) := by decide

/-- The window is 7 to 10: ranges that share its last and its first byte only. -/
theorem test_witness_BorrowedPayloadIsOnLoan :
    (testNext (exec (.method 1 4) (testTaken (testLane (testParams 4 64 .borrow) ctrlBusy 0 testMethod)))
      (fun t => decide (t.dec.resp.status = Status.ok.code ∧ t.dec.resp.length ≠ 0 ∧ t.onLoan 10 20 = true ∧ t.onLoan 0 8 = true ∧
          t.onLoan 11 20 = false ∧ t.onLoan 0 7 = false))) ∧
      (testNext (exec (.method 1 4) (testTaken (testBusy testMethod 0)))
      (fun t => decide (t.dec.resp.status = Status.ok.code ∧ t.dec.params.payloadMode = .copy))) ∧
      testNext (step (testState (testLane (testParams 4 64 .borrow) ctrlBusy 0 testMethod) (.decoder 0))) (fun t => decide (t.decs.length = 1)) ∧
      testNext (step (testAct { testDone with borrowed := [{ start := 7, len := 1 }] } .release)) (fun t => decide (t.dec.borrowed = [])) := by
  decide

/-! ## Witnesses: DECODE as a whole -/

theorem test_witness_CompleteStepIsDecodeFn :
    (testState (testBusy testMethod 0) (.decoder 0)).decoderReady (testTaken (testBusy testMethod 0)) := ⟨rfl, rfl, rfl⟩

/-- The same buffer in two instances that differ in a byte beyond BUF_LEN, the mode, the capacity, the requester and the held response. -/
theorem test_witness_ResponseDependsOnFourInputs :
    let l := testBusy testHeartbeat 0
    let l' := { testLane (testParams 0xFFFFFFFF 9 .borrow) ctrlBusy 0 (testHeartbeat ++ [0x55]) with
                  bufLen := 8, resp := testDone.resp, requester := some 3 }
    l ≠ l' ∧ l.ctrl = ctrlBusy ∧ l'.ctrl = ctrlBusy ∧ l'.bufLen = l.bufLen ∧ l'.reqOffset = l.reqOffset ∧
      l'.params.frameMax = l.params.frameMax ∧ ∀ a < 8, Memory.read l'.buf a = Memory.read l.buf a := by
  decide

/-- Two buffers that differ before the frame and after it. -/
theorem test_witness_OnlyFrameBytesMatter :
    let l := testBusy ([0xAA] ++ testMethod ++ [0x01]) 1
    let l' := testBusy ([0xBB] ++ testMethod ++ [0x02]) 1
    l ≠ l' ∧ l.ctrl = ctrlBusy ∧ l'.ctrl = ctrlBusy ∧ l'.bufLen = l.bufLen ∧ l'.reqOffset = l.reqOffset ∧
      l'.params.frameMax = l.params.frameMax ∧
      (4 : Length) = be32 (Memory.read l.buf 4) (Memory.read l.buf 5) (Memory.read l.buf 6) (Memory.read l.buf 7) ∧
      (kind (Memory.read l.buf 1)).isSome = true ∧ l.reqOffset + 7 + 4 + 1 ≤ l.bufLen ∧
      ∀ a < 13, 1 ≤ a → Memory.read l'.buf a = Memory.read l.buf a := by decide

/-- A complete frame and its extension; a header with need 12 and an extension to 11 bytes. -/
theorem test_witness_ResponseIsStableUnderExtension :
    ((testBusy (testMethod ++ [0x01]) 0).bytes = (testBusy testMethod 0).bytes ++ [0x01] ∧
        (completeResponse (testBusy testMethod 0)).map (fun r => r.status) = some 0 ∧
        (completeResponse (testBusy (testMethod ++ [0x01]) 0)).isSome = true) ∧
      ((testBusy (testMethod.take 11) 0).bytes = (testBusy (testMethod.take 7) 0).bytes ++ [0x00, 0x0A, 0x00, 0x0B] ∧
        (completeResponse (testBusy (testMethod.take 7) 0)).map (fun r => (r.status, r.need)) = some (1, 12) ∧
        (completeResponse (testBusy (testMethod.take 11) 0)).map (fun r => r.status) = some 1) := by decide

/-- E5's place in a buffer, at `L = FRAME_MAX` and one above it. -/
theorem test_witness_DecodeOfEncodeRefGivesFrame :
    let b := frameNotation .body 0xBEEF [0x00, 0x01, 0x02, 0x03, 0x04]
    let l := testLane (testParams 5 64 .copy) ctrlBusy 5 ([0, 0, 0, 0, 0] ++ b ++ [0x07])
    let l' := testLane (testParams 4 64 .copy) ctrlBusy 5 ([0, 0, 0, 0, 0] ++ b ++ [0x07])
    encodeRef 0x03 0xBEEF [0x00, 0x01, 0x02, 0x03, 0x04] = some b ∧ l.ctrl = ctrlBusy ∧ l'.ctrl = ctrlBusy ∧
      l.bytes = [0, 0, 0, 0, 0] ++ b ++ [0x07] ∧ l'.bytes = [0, 0, 0, 0, 0] ++ b ++ [0x07] ∧ l.reqOffset = 5 ∧
      5 ≤ l.params.frameMax.toNat ∧ l'.params.frameMax.toNat < 5 := by decide

theorem test_witness_DecodedFrameReencodesToItsBytes :
    (completeResponse (testBusy (testMethod ++ [0x01]) 0)).map (fun r => (r.status, r.consumed)) = some (Status.ok.code, 12) := by decide

/-- Prefixes of 6, 7 and 11 bytes; a changed end byte; a changed tag. -/
theorem test_witness_DamagedFrameResponses :
    encodeRef 0x01 1 [0x00, 0x0A, 0x00, 0x0B] = some testMethod ∧ 4 ≤ (testBusy [] 0).params.frameMax.toNat ∧
      (testBusy (testMethod.take 6) 0).bytes = [] ++ testMethod.take 6 ∧ (testBusy (testMethod.take 7) 0).bytes = [] ++ testMethod.take 7 ∧
      (testBusy (testMethod.take 11) 0).bytes = [] ++ testMethod.take 11 ∧ 11 < testMethod.length ∧
      (testBusy (frameEndReplaced testMethod 0xCD) 0).bytes = [] ++ frameEndReplaced testMethod 0xCD ++ [] ∧ (0xCD : Byte) ≠ 0xCE ∧
      (testBusy (0x07 :: testMethod.tail) 0).bytes = [] ++ 0x07 :: testMethod.tail ++ [] ∧ kind 0x07 = none := by decide

theorem test_witness_EncodeRefBytes : encodeRef 0x02 0xFFFF [0xAA] = some [0x02, 0xFF, 0xFF, 0x00, 0x00, 0x00, 0x01, 0xAA, 0xCE] := by decide

/-- The heartbeat in front is dropped. -/
theorem test_witness_DecodeIsPositionIndependent :
    let l := testBusy (testHeartbeat ++ testMethod) 8
    let l' := testBusy testMethod 0
    l.ctrl = ctrlBusy ∧ l'.ctrl = ctrlBusy ∧ 8 ≤ l.bufLen ∧ l'.bytes = l.bytes.drop 8 ∧ l.reqOffset = l'.reqOffset + 8 ∧
      l'.params.frameMax = l.params.frameMax ∧ (completeResponse l).isSome = true := by decide

/-- The longest frame admitted fills the buffer exactly. -/
theorem test_witness_IncompleteNeedFitsCapacity :
    let l := testLane (testParams 4 12 .copy) ctrlBusy 0 (testMethod.take 11)
    l.params.frameMax.toNat + 8 ≤ l.params.bufCapacity ∧ (completeResponse l).map (fun r => (r.status, r.need)) = some (1, 12) := by decide

theorem test_witness_PayloadFitsItsStore :
    let l := testLane (testParams 4 12 .copy) ctrlBusy 0 testMethod
    l.bufLen ≤ l.params.bufCapacity ∧ (completeResponse l).map (fun r => r.payload.length) = some 4 := by decide

/-! ## Witnesses: the controller, Reset and the registers -/

/-- Every agent takes a step on instance 1, and instance 0 is there before and after. -/
theorem test_witness_step_of_two_instances :
    testNext (step (testTwo ctrlBusy 1 .halt (.decoder 1)))
        (fun t => decide (t.decs[0]? = some testDone.toDecoder ∧ (t.decs[1]?).map (fun d => d.ctrl) = some ctrlDone)) ∧
      testNext (step (testTwo ctrlBusy 1 (.on 1 .reset) (.host 0)))
        (fun t => decide (t.decs[0]? = some testDone.toDecoder ∧ (t.decs[1]?).map (fun d => d.ctrl) = some ctrlIdle)) ∧
      testNext (step (testTwo ctrlBusy 1 .halt (.reset 1)))
        (fun t => decide (t.decs[0]? = some testDone.toDecoder ∧ (t.decs[1]?).map (fun d => d.ctrl) = some ctrlIdle)) ∧
      (∀ no < 2, (testTwo ctrlBusy 1 .halt (.decoder 1)).nextTurn ≠ .host no) := by decide

/-- A host stands at its action on instance 0, with its turn next. -/
theorem test_hostReady (l : Lane) (op : Op) (h : l.ctrl ≠ ctrlReserved) :
    (testAct l op).hostReady (testActed l op) 0 (testHost op) op := ⟨⟨rfl, rfl, rfl, rfl⟩, rfl, h⟩

/-- The request of the largest offset that 7 bits hold, from IDLE; `DECODE cur` from DONE; a request while BUSY. -/
theorem test_witness_AcceptRegisters :
    let l := testLane (testParams 0 64 .copy) ctrlIdle 0 []
    ((testAct l (.request (.number 127))).hostReady (testActed l (.request (.number 127))) 0 (testHost (.request (.number 127)))
        (.request (.number 127)) ∧ l.ctrl = ctrlIdle ∧ 127 < 2 ^ l.params.addrWidth) ∧
      ((testAct testDone (.decode .cursor)).hostReady (testActed testDone (.decode .cursor)) 0 (testHost (.decode .cursor)) (.decode .cursor) ∧
        (testHost (.decode .cursor)).awaiting = false ∧ testDone.ctrl = ctrlDone) ∧
      ((testAct (testBusy [] 0) (.request .cursor)).hostReady (testActed (testBusy [] 0) (.request .cursor)) 0 (testHost (.request .cursor))
        (.request .cursor) ∧ (testBusy [] 0).ctrl = ctrlBusy) :=
  ⟨⟨test_hostReady _ _ (by decide), by decide, by decide⟩, ⟨test_hostReady _ _ (by decide), by decide, by decide⟩,
    ⟨test_hostReady _ _ (by decide), by decide⟩⟩

/-- A step that changes CTRL_STATE for each row of R23, and turns of agents that have no step. -/
theorem test_witness_ControllerTransitions :
    testNext (step (testAct testDone (.request .cursor))) (fun t => decide (t.dec.ctrl = ctrlBusy)) ∧
      testNext (step (testState (testBusy testMethod 0) (.decoder 0))) (fun t => decide (t.dec.ctrl = ctrlDone)) ∧
      testNext (step (testState (testBusy testMethod 0) (.reset 0))) (fun t => decide (t.dec.ctrl = ctrlIdle)) ∧
      testNext (step (testState testDone (.decoder 0))) (fun t => decide (t.decs = [testDone.toDecoder])) ∧
      testNext (step (testMachine testDone { testHost .reset with run := .halted } [.host 0])) (fun t => decide (t.decs = [testDone.toDecoder])) := by
  decide

theorem test_witness_ResetEventRegisters :
    (testState (testBusy testHeartbeat 0) (.reset 0)).resetReady (testTaken (testBusy testHeartbeat 0)) := ⟨rfl, rfl⟩

theorem test_witness_ResetStateRegisters : State.reset.decs.length = 1 ∧ State.reset.hosts.length = 1 := by decide

/-- A legal instance that holds an OK response. -/
theorem test_legal_done : testDone.toDecoder.Inv :=
  ⟨by decide, by decide, by decide, fun _ => Or.inl ⟨by decide, ⟨.heartbeat, by decide, by decide⟩, by decide, by decide, by decide, by decide,
    by decide⟩, by decide, by decide, by decide, by decide⟩

/-- A legal instance that holds an error response. -/
theorem test_legal_done_error : testDoneError.toDecoder.Inv :=
  ⟨by decide, by decide, by decide, fun _ => Or.inr ⟨⟨by decide, by decide, by decide, by decide, by decide, by decide, by decide⟩,
    Or.inl ⟨by decide, by decide, Or.inl (by decide)⟩⟩, by decide, by decide, by decide, by decide⟩

/-- A legal instance with a request in progress. -/
theorem test_legal_busy : (testBusy testMethod 0).toDecoder.Inv :=
  ⟨by decide, by decide, by decide, fun h => absurd h (by decide), by decide, by decide, by decide, by decide⟩

/-- A machine of one legal instance is legal. -/
theorem test_legal_machine (l : Lane) (h : HostAgent) (ts : List Turn) (hi : ({ l.toDecoder with bufId := 0 } : Decoder).Inv)
    (hw : Memory.wf l.buf = true) (hf : ∀ c ∈ l.buf, c.1 < l.params.bufCapacity) : (testMachine l h ts).Inv := by
  have one : ∀ d ∈ (testMachine l h ts).decs, d = { l.toDecoder with bufId := 0 } := fun d hd => by
    simpa [State.decs, testMachine] using hd
  refine ⟨fun d hd => one d hd ▸ hi, fun d hd d' hd' _ => ?_, ?_, fun d hd => ?_, fun d hd c hc => ?_⟩
  · rw [one d hd, one d' hd']; exact hi.len_fits
  · simpa [testMachine] using hw
  · rw [one d hd]; simp [testMachine]
  · rw [one d hd] at hc ⊢; exact hf c hc

/-- A legal machine that steps. -/
theorem test_witness_StepKeepsLegalMachine :
    (testState (testBusy testMethod 0) (.decoder 0)).Inv ∧
      testNext (step (testState (testBusy testMethod 0) (.decoder 0))) (fun t => decide (t.dec.resp.status = 0)) :=
  ⟨test_legal_machine _ _ _ test_legal_busy (by decide) (by decide), by decide⟩

/-- An instance that has reached 0b11, and one that holds status 7, with each action that reads it. -/
theorem test_witness_ReservedCodesAloneFault :
    let l := { testDone with resp := { testDone.resp with status := 7 } }
    (testState { testDone with ctrl := ctrlReserved } (.decoder 0)).decs[0]? = some { testDone.toDecoder with ctrl := ctrlReserved } ∧
      (testAct { testDone with ctrl := ctrlReserved } .wait).hostAt 0 (testHost .wait) (.on 0 .wait) ∧
      statusReserved (testActed l .advance).dec.resp.status = true ∧ (testActed l .advance).dec.respValid = 1 ∧
      regAtAddress (testActed l (.readAt 3)).dec.params 3 = some .respStatus ∧
      ∀ op ∈ [Op.read .respStatus, .readAt 3, .advance, .ifStatus .ok 1], (testAct l op).hostReady (testActed l op) 0 (testHost op) op :=
  ⟨by decide, ⟨rfl, rfl, rfl, rfl⟩, by decide, by decide, by decide, fun op _ => test_hostReady _ op (by decide)⟩

/-- A legal instance with RESP_VALID 1 and status OK, and one with RESP_VALID 0: DispatchIsOneHot and InvalidResponseReadsAsZero. -/
theorem test_witness_DispatchIsOneHot :
    testDone.toDecoder.Inv ∧ testDone.respValid = 1 ∧ testDone.resp.status = Status.ok.code ∧ (testBusy testMethod 0).toDecoder.Inv ∧
      (testBusy testMethod 0).respValid = 0 :=
  ⟨test_legal_done, by decide, by decide, test_legal_busy, by decide⟩

/-- An instance that is not acted on has its BUF_LEN set, and a host that is not the turn's is marked: StepLeavesOtherInstances. -/
theorem test_witness_StepLeavesOtherInstances :
    (testTwo ctrlIdle 0 (.on 0 (.write [0xAA])) (.host 0)).nextTurn = .host 0 ∧
      testNext (step (testTwo ctrlIdle 0 (.on 0 (.write [0xAA])) (.host 0))) (fun t => decide ((t.decs[1]?).map (fun d => d.bufLen) = some 1)) ∧
      testNext (step { testMachine { testBusy (testMethod.take 11 ++ [0x00]) 0 with requester := some 0 } HostAgent.initial [] with
        turns := [.decoder 0] }) (fun t => (testH t).structural) := by decide

/-- Two machines with the same hosts and instance 1 of buffer 1, and another instance 0 of buffer 0. -/
theorem test_witness_StepIgnoresOtherBuffers :
    let s₁ := testTwo ctrlBusy 1 .halt (.decoder 1)
    let s₂ : State := { s₁ with dec := (testBusy [] 3).toDecoder, buffers := [[], Memory.writeList [] 0 testMethod] }
    s₂ ≠ s₁ ∧ s₂.nextTurn = s₁.nextTurn ∧ s₂.hosts = s₁.hosts ∧ s₂.draws = s₁.draws ∧ s₂.group 1 = s₁.group 1 ∧
      s₂.buffers[1]? = s₁.buffers[1]? ∧ (s₁.decs[1]?).map (fun d => d.bufId) = some 1 ∧ s₁.nextTurn = .decoder 1 ∧
      testNext (step s₁) (fun _ => true) := by decide

theorem test_witness_BusyInstancesComplete :
    let s : State := { testTwo ctrlBusy 1 .halt (.decoder 1) with turns := [] }
    s.turns = [] ∧ s.decs.any (fun d => decide (d.ctrl = ctrlBusy)) = true := by decide

/-! ## Witnesses: the host -/

/-- As many bytes as the capacity. -/
theorem test_witness_BufferWriteEffect :
    let l := testLane (testParams 0 8 .copy) ctrlIdle 0 []
    (testAct l (.write testHeartbeat)).Inv ∧ (testActed l (.write testHeartbeat)).sharedBusy = false ∧
      testHeartbeat.length ≤ (testActed l (.write testHeartbeat)).capacity ∧
      (testActed l (.write testHeartbeat)).onLoan 0 testHeartbeat.length = false ∧ l.ctrl ≠ ctrlReserved :=
  ⟨test_legal_machine _ _ _ ⟨by decide, by decide, by decide, fun h => absurd h (by decide), by decide, by decide, by decide, by decide⟩
    (by decide) (by decide), by decide, by decide, by decide, by decide⟩

/-- A BORROW window that ends where the write begins is no obstacle to an append. -/
theorem test_witness_AppendEffect :
    let l := { testDone with params := testParams 0 12 .borrow, borrowed := [{ start := 7, len := 1 }] }
    let s' := testActed l (.append [0x0A, 0x00, 0x0B, 0xCE])
    (testAct l (.append [0x0A, 0x00, 0x0B, 0xCE])).Inv ∧ s'.sharedBusy = false ∧ s'.dec.bufLen + 4 ≤ s'.capacity ∧
      s'.onLoan s'.dec.bufLen (s'.dec.bufLen + 4) = false ∧ l.ctrl ≠ ctrlReserved :=
  ⟨test_legal_machine _ _ _ ⟨by decide, by decide, by decide, test_legal_done.response_shape, by decide, by decide, by decide, by decide⟩
    (by decide) (by decide), by decide, by decide, by decide, by decide⟩

/-- A drop of the whole buffer; a drop of nothing with a window on loan; a drop of more than the buffer holds, without a loan and with a window that begins
where the dropped prefix ends. -/
theorem test_witness_DropEffect :
    let h := fun k : Nat => { testHost (.drop k) with cur := 9 }
    let l' := { testDone with borrowed := [{ start := 0, len := 8 }] }
    (testMachine testDone (h 8) [.host 0]).Inv ∧
      (∀ k ∈ [8, 9], (testMachine testDone (h k) [.host 0]).hostReady (testMachine testDone (h k) []) 0 (h k) (.drop k)) ∧
      (testMachine testDone (h 8) []).sharedBusy = false ∧ 8 ≤ (h 8).cur ∧ 8 ≤ testDone.bufLen ∧
      (testMachine testDone (h 8) []).onLoan 0 8 = false ∧ (testMachine testDone (h 8) []).onLoan 0 (testDone.bufLen - 8) = false ∧
      testDone.bufLen < 9 ∧ 9 ≤ (h 9).cur ∧ (testMachine testDone (h 9) []).onLoan 0 9 = false ∧
      (testMachine { testDone with borrowed := [{ start := 9, len := 3 }] } (h 9) []).onLoan 0 9 = false ∧
      (testMachine { testDone with borrowed := [{ start := 9, len := 3 }] } (h 9) []).onLoan 11 12 = true ∧
      (testAct l' (.drop 0)).Inv ∧ (testAct l' (.drop 0)).hostReady (testActed l' (.drop 0)) 0 (testHost (.drop 0)) (.drop 0) :=
  ⟨test_legal_machine _ _ _ test_legal_done (by decide) (by decide), fun _ _ => ⟨⟨rfl, rfl, rfl, rfl⟩, rfl, (by decide : testDone.ctrl ≠ ctrlReserved)⟩,
    by decide, by decide, by decide, by decide, by decide, by decide, by decide, by decide, by decide, by decide,
    test_legal_machine _ _ _ { test_legal_done with } (by decide) (by decide), test_hostReady _ _ (by decide)⟩

/-- The instances of AdvanceEffect, with an OK and with an error response. -/
theorem test_witness_AdvanceEffect :
    (testActed testDone .advance).dec.Inv ∧ (testActed testDone .advance).dec.respValid = 1 ∧ testDone.resp.status = Status.ok.code ∧
      (testActed testDoneError .advance).dec.Inv ∧ (testActed testDoneError .advance).dec.respValid = 1 ∧
      testDoneError.resp.status ≠ Status.ok.code ∧ testDone.ctrl ≠ ctrlReserved ∧ testDoneError.ctrl ≠ ctrlReserved :=
  ⟨test_legal_done, by decide, by decide, test_legal_done_error, by decide, by decide, by decide, by decide⟩

/-- Every register by name, with a status that is not reserved. -/
theorem test_witness_RegisterReadHasNoSideEffect :
    (∀ r ∈ Reg.respPayload :: Reg.indexed, (testAct testDone (.read r)).hostReady (testActed testDone (.read r)) 0 (testHost (.read r)) (.read r)) ∧
      statusReserved testDone.resp.status = false :=
  ⟨fun r _ => test_hostReady testDone (.read r) (by decide), by decide⟩

/-- An instance in DONE that holds the response V12 to a request at offset 2. -/
def testDoneHeader : Lane :=
  { testLane (testParams 0xFFFFFFFF 64 .copy) ctrlDone 2 [0x00, 0x00, 0x02, 0xFF, 0xFF, 0x00, 0x00, 0x00, 0x01, 0xAA, 0xCE] with
      respValid := 1,
      resp := { status := 0, type := 0x02, dispatch := 0b0010, channel := 65535, length := 1, payloadStart := 9, consumed := 9, errByte := 0,
                need := 0, payload := [0xAA] } }

/-- R24: what the registers at indices 0x00 to 0x0D read as there, and RESP_PAYLOAD by its name. -/
theorem test_host_read_V12 :
    (List.range 14).all (fun k =>
        testNext (step (testAct testDoneHeader (.readAt k)))
          (fun t => decide ((testH t).seen = ([2, 2, 1, 0, 2, 2, 65535, 1, 9, 9, 0, 0, 11, 4294967295].map Reading.word)[k]?))) = true ∧
      testNext (step (testAct testDoneHeader (.read .respPayload))) (fun t => decide ((testH t).seen = some (.bytes [0xAA]))) = true := by
  decide

/-- A waiting DECODE line in BUSY, in DONE and after a Reset, and one that has not requested, in DONE. -/
theorem test_witness_DecodeLineWaits :
    let h := { testHost (.decode .cursor) with awaiting := true }
    (∀ l ∈ [testBusy [] 0, testDone, { testDone.resetRegs with buf := [] }],
        (testMachine l h [.host 0]).hostReady (testMachine l h []) 0 h (.decode .cursor)) ∧
      (testBusy [] 0).ctrl = ctrlBusy ∧ testDone.ctrl ≠ ctrlBusy ∧ testDone.respValid = 1 ∧ testDone.resetRegs.ctrl ≠ ctrlBusy ∧
      testDone.resetRegs.respValid = 0 ∧
      (testAct testDone (.decode (.number 127))).hostReady (testActed testDone (.decode (.number 127))) 0 (testHost (.decode (.number 127)))
        (.decode (.number 127)) ∧ (testHost (.decode (.number 127))).awaiting = false ∧ 127 < 2 ^ testDone.params.addrWidth := by
  refine ⟨fun l hl => ⟨⟨rfl, rfl, rfl, rfl⟩, rfl, ?_⟩, by decide, by decide, by decide, by decide, by decide,
    test_hostReady _ _ (by decide), by decide, by decide⟩
  revert l
  simp only [List.forall_mem_cons, List.not_mem_nil, false_implies, implies_true, and_true]
  decide

/-- The branch taken, not taken for its status, and not taken while RESP_VALID = 0; GOTO, HALT and ABORT. -/
theorem test_witness_HostControlFlow :
    (∀ op ∈ [Op.ifStatus .ok 5, .ifStatus .incomplete 5], (testAct testDone op).hostReady (testActed testDone op) 0 (testHost op) op) ∧
      statusReserved testDone.resp.status = false ∧ testDone.resp.status = Status.ok.code ∧
      testDone.resp.status ≠ Status.incomplete.code ∧ (testBusy [] 0).respValid ≠ 1 ∧ (testBusy [] 0).ctrl ≠ ctrlReserved ∧
      ∀ a ∈ [Action.goto 3, .halt, .abort, .start],
        (testMachine testDone { HostAgent.initial with program := [a] } [.host 0]).hostAt 0 { HostAgent.initial with program := [a] } a :=
  ⟨fun op _ => test_hostReady testDone op (by decide), by decide, by decide, by decide, by decide, by decide, fun _ _ => ⟨rfl, rfl, rfl, rfl⟩⟩

/-- An instance BUSY with host 0's request, whose answer is a structural error or not; a marked host at START; a request and a DECODE line that are accepted,
at the largest offset that 7 bits hold; an action that steps, by a host that has used no instance. -/
theorem test_witness_StructuralErrorMarksRun :
    let m := { HostAgent.initial with program := [.start], cur := 5, structural := true }
    (∀ bs ∈ [testMethod, testMethod.take 11 ++ [0x00]],
      let l := { testBusy bs 0 with requester := some 0 }
      (testState l (.decoder 0)).decoderReady (testTaken l) ∧ (testTaken l).dec.requester = some 0 ∧
        (testState l (.decoder 0)).hosts[0]? = some HostAgent.initial) ∧
      ((testMachine testDone m [.host 0]).hostAt 0 m .start ∧
        testNext (step (testMachine testDone m [.host 0])) (fun t => decide ((testH t).structural = false ∧ (testH t).cur = 0))) ∧
      (∀ op ∈ [Op.request (.number 127), .decode (.number 127), .advance],
        (testAct testDone op).hostReady (testActed testDone op) 0 (testHost op) op ∧ (testHost op).awaiting = false) ∧
      testDone.ctrl ≠ ctrlBusy ∧ 127 < 2 ^ testDone.params.addrWidth ∧
      testNext (step (testAct testDone .advance)) (fun t => decide ((testH t).used = [0])) :=
  ⟨fun _ _ => ⟨⟨rfl, rfl, rfl⟩, rfl, rfl⟩, ⟨⟨rfl, rfl, rfl, rfl⟩, by decide⟩, fun _ _ => ⟨test_hostReady _ _ (by decide), rfl⟩, by decide, by decide,
    by decide⟩

/-- For each refused step, an instance or a buffer on which it is refused. -/
theorem test_witness_HostStepsThatDoNotExist :
    let w := { testDone with borrowed := [{ start := 7, len := 1 }] }
    (testBusy [] 0).ctrl = ctrlBusy ∧ 2 ^ testDone.params.addrWidth ≤ (OffsetArg.number 128).value HostAgent.initial ∧
      (testActed (testBusy [] 0) .wait).sharedBusy = true ∧ (testActed testDone .wait).sharedBusy = false ∧
      (testActed testDone .wait).capacity < 65 ∧ (testActed testDone .wait).capacity < (testActed testDone .wait).dec.bufLen + 57 ∧
      (testActed w .wait).onLoan 0 8 = true ∧ (testActed { w with bufLen := 7 } .wait).onLoan 7 8 = true ∧
      (testActed { w with bufLen := 7 } .wait).onLoan 0 8 = true ∧
      (testLane Params.default ctrlIdle 0 []).respValid = 0 ∧ (testLane Params.default ctrlIdle 0 []).requester ≠ some 0 := by decide

/-- The instances and actions of OtherHostActions: register index 0x0D is the last. -/
theorem test_witness_OtherHostActions :
    (∀ op ∈ [Op.request .cursor, .readAt 0, .readAt 13, .wait, .reset, .release],
      (testAct testDone op).hostReady (testActed testDone op) 0 (testHost op) op) ∧
      testDone.params.regBase + 13 * testDone.params.regStride = 13 ∧ testDone.params.regStride ≠ 0 ∧ Reg.frameMaxCfg.index = some 13 ∧
      statusReserved testDone.resp.status = false ∧ testDone.ctrl ≠ ctrlBusy ∧ testDone.respValid = 1 ∧ (testBusy [] 0).ctrl = ctrlBusy ∧
      (testBusy [] 0).ctrl ≠ ctrlReserved :=
  ⟨fun op _ => test_hostReady testDone op (by decide), by decide, by decide, by decide, by decide, by decide, by decide, by decide, by decide⟩

end Sys2Proof.Machine
end

section
/-!
PROOFS. The response of a Complete step as the function `DecodeFn` of the buffer's bytes, the offset and FRAME_MAX (R21, R86), the registers after a Reset
(R42, R160), and what the response registers read as while RESP_VALID = 0 (R43).
-/

namespace Sys2Proof.Machine

/-! ## The response as a function of the buffer's bytes -/

/-- `MemRead` on the byte list of a lane's buffer reads the buffer. -/
theorem byteAt_bytes (l : Lane) (i : Nat) (h : i < l.bufLen) : byteAt l.bytes i = Memory.read l.buf i :=
  l.getD_bytes i h

/-- The payload bytes of R97, cut out of the byte list of a lane's buffer. -/
theorem Lane.take_drop_bytes (l : Lane) (a n : Nat) (h : a + n ≤ l.bufLen) : (l.bytes.drop a).take n = Memory.slice l.buf a n := by
  rw [Lane.bytes, Memory.take_drop_slice _ _ _ _ _ h, Nat.zero_add]

/-- A tag that `Kind` takes is the tag of its type (R105). -/
theorem eq_tag_of_kind (b : Byte) (t : FrameType) (h : kind b = some t) : b = t.tag := by
  unfold kind at h
  split_ifs at h <;> cases h <;> assumption

/-- The UNKNOWN rows of the opcode table, which follow the four known types, match no tag of a known type (R14, R70). -/
theorem tagMatches_tag_eq_false (t : FrameType) : ∀ row ∈ opcodeRows.drop 4, tagMatches row t.tag = false := by
  cases t <;> simp [opcodeRows, tagMatches, FrameType.tag]

/-- `Kind` takes no tag of an UNKNOWN row. -/
theorem kind_eq_none_of_tagMatches (row : Byte × Byte) (hrow : row ∈ opcodeRows.drop 4) (tag : Byte) (h : tagMatches row tag = true) :
    kind tag = none := by
  cases hk : kind tag with
  | none => rfl
  | some t =>
    rw [eq_tag_of_kind tag t hk, tagMatches_tag_eq_false t row hrow] at h
    contradiction

/-- An instruction's response by `Kind` of its tag: UNKNOWN_TYPE where it is none (R91), checks 3 to 5 where it is a type. -/
theorem instrResponse_eq_elim_kind (l : Lane) (i : Instr) (hw : i.wellFormed = true) :
    instrResponse l i =
      (kind i.tag).elim (Response.error .unknownType i.tag 0) (fun t => knownResponse l t i.channel i.length) := by
  cases i
  case method | header | body | heartbeat | unknown00 | unknown09 => rfl
  case unknown04 tag _ _ | unknown0A tag _ _ | unknown0C tag _ _ | unknown10 tag _ _ | unknown20 tag _ _ | unknown40 tag _ _
      | unknown80 tag _ _ =>
    have hk : kind tag = none := kind_eq_none_of_tagMatches _ (by simp [opcodeRows]) tag hw
    simp only [instrResponse, Instr.tag, hk, Option.elim_none]

/-- Checks 3 to 5 of `DecodeFn` on a lane's bytes are those of a known frame (R92 to R100). -/
theorem decodeFn_of_header (l : Lane) (h : l.reqOffset + 7 ≤ l.bufLen) :
    decodeFn l.bytes l.reqOffset l.params.frameMax =
      (kind (Memory.read l.buf l.reqOffset)).elim (Response.error .unknownType (Memory.read l.buf l.reqOffset) 0)
        (fun t => knownResponse l t
          (be16 (Memory.read l.buf (l.reqOffset + 1)) (Memory.read l.buf (l.reqOffset + 2)))
          (be32 (Memory.read l.buf (l.reqOffset + 3)) (Memory.read l.buf (l.reqOffset + 4))
            (Memory.read l.buf (l.reqOffset + 5)) (Memory.read l.buf (l.reqOffset + 6)))) := by
  have h0 : ¬ l.bufLen < l.reqOffset := by omega
  have h1 : ¬ l.bufLen - l.reqOffset < 7 := by omega
  have hb : ∀ k < 7, byteAt l.bytes (l.reqOffset + k) = Memory.read l.buf (l.reqOffset + k) := fun k hk =>
    byteAt_bytes l _ (by omega)
  have ht : byteAt l.bytes l.reqOffset = Memory.read l.buf l.reqOffset := hb 0 (by omega)
  simp only [decodeFn, Lane.length_bytes, h0, h1, if_false, ht, hb 1 (by omega), hb 2 (by omega), hb 3 (by omega), hb 4 (by omega),
    hb 5 (by omega), hb 6 (by omega)]
  generalize be32 _ _ _ _ = len
  cases kind (Memory.read l.buf l.reqOffset) with
  | none => rfl
  | some t =>
    simp only [Option.elim_some, knownResponse, Lane.avail]
    by_cases hmax : l.params.frameMax.toNat < len.toNat
    · simp only [hmax, if_true]
    by_cases hfit : l.bufLen - l.reqOffset - 7 < len.toNat + 1
    · simp only [hmax, hfit, if_true, if_false, needOf, frameLength]
    · have he := byteAt_bytes l (l.reqOffset + 7 + len.toNat) (by omega)
      have hp := l.take_drop_bytes (l.reqOffset + 7) len.toNat (by omega)
      simp only [hmax, hfit, if_false, he, hp, Lane.endIndex, Lane.payloadIndex]
      by_cases hend : Memory.read l.buf (l.reqOffset + 7 + len.toNat) = frameEnd
      · exact (if_pos hend).trans (if_neg (not_not.2 hend)).symm
      · exact (if_neg hend).trans (if_pos hend).symm

/-- The response of a lane's Complete is `DecodeFn` of its bytes, its offset and its FRAME_MAX (R86). -/
theorem laneResponse_eq_decodeFn (l : Lane) : laneResponse l = decodeFn l.bytes l.reqOffset l.params.frameMax := by
  rcases l.fetch_cases with ⟨hlt, hf⟩ | ⟨hle, hav, hf⟩ | ⟨h7, i, hf, hw, htag, hch, hlen⟩
  · simp only [laneResponse, hf, decodeFn, Lane.length_bytes, hlt, if_true]
  · have hav' : l.bufLen - l.reqOffset < 7 := hav
    simp only [laneResponse, hf, decodeFn, Lane.length_bytes, Nat.not_lt.2 hle, hav', if_true, if_false]
  · rw [decodeFn_of_header l h7, ← htag, ← hch, ← hlen, ← instrResponse_eq_elim_kind l i hw]
    simp only [laneResponse, hf]

/-- Lanes of equal BUF_LEN that read alike below it hold the same buffer (R46). -/
theorem Lane.bytes_congr (l l' : Lane) (hn : l'.bufLen = l.bufLen)
    (hr : ∀ a, a < l.bufLen → Memory.read l'.buf a = Memory.read l.buf a) : l'.bytes = l.bytes := by
  rw [Lane.bytes, Lane.bytes, hn]
  exact Memory.slice_congr _ _ _ 0 fun a _ ha => hr a (by omega)

/-- Settles O25: both responses are `DecodeFn` of the same bytes, offset and FRAME_MAX. -/
theorem responseDependsOnFourInputs : Obligations.ResponseDependsOnFourInputs := by
  intro l l' hb hb' hn ho hm hr
  have e : laneResponse l' = laneResponse l := by
    rw [laneResponse_eq_decodeFn, laneResponse_eq_decodeFn, Lane.bytes_congr l l' hn hr, ho, hm]
  exact ⟨laneResponse l, completeResponse_of_busy l hb, by rw [completeResponse_of_busy l' hb', e]⟩

/-! ## Reset and the response registers without a response -/

/-- Settles O39: a Reset turn is `resetRegs` of the instance in focus, and no other part of the machine is written. -/
theorem resetEventRegisters : Obligations.ResetEventRegisters := by
  intro s s' hr
  refine ⟨_, step_of_resetReady s s' hr, ?_⟩
  simp [ctrlIdle, Response.zero]

/-- The response registers by name, without RESP_PAYLOAD, read as 0 where they hold their reset values (R42). -/
theorem readReg_word_zero_of_resp_zero (d : Decoder) (h : d.resp = Response.zero) :
    ∀ r ∈ [Reg.respStatus, .respType, .respDispatch, .respChannel, .respLength, .respPayloadStart, .respConsumed, .respErrByte,
      .respNeed], d.readReg r = .word 0 := by
  simp [Decoder.readReg, h, Response.zero]

/-- RESP_PAYLOAD reads as no bytes where the response registers hold their reset values (R42). -/
theorem readReg_payload_of_resp_zero (d : Decoder) (h : d.resp = Response.zero) : d.readReg .respPayload = .bytes [] := by
  simp [Decoder.readReg, h, Response.zero]

/-- Settles O45: in a legal instance RESP_VALID = 0 means that the response registers hold their reset values. -/
theorem invalidResponseReadsAsZero : Obligations.InvalidResponseReadsAsZero := by
  intro d hi hv
  have hz : d.resp = Response.zero := hi.zero_unless_valid hv
  exact ⟨readReg_word_zero_of_resp_zero d hz, readReg_payload_of_resp_zero d hz⟩

end Sys2Proof.Machine
end

section
/-!
PROOFS. DECODE check by check: what fetching a header gives (R87 to R91), what a known frame answers at each of checks 3 to 5 (R92 to R100), the Complete step
as `DecodeFn` (R86), the bytes on which its response rests (R51, R98), and Accept (R84).
-/

namespace Sys2Proof.Machine

/-! ## The header and checks 0 to 2 -/

/-- Settles O6: the fetch gives the header's instruction, and its two fields have the big-endian values of `be16` and `be32`. -/
theorem headerFieldsAreBigEndian : Obligations.HeaderFieldsAreBigEndian := by
  intro l h7
  obtain ⟨i, hf, _, htag, hch, hlen⟩ := l.fetch_instr h7
  exact ⟨i, hf, htag, by rw [hch, toNat_be16], by rw [hlen, toNat_be32]⟩

/-- Check 0 answers for an offset beyond BUF_LEN (R87). -/
theorem laneResponse_of_bufLen_lt (l : Lane) (h : l.bufLen < l.reqOffset) :
    laneResponse l = Response.error .offsetOutOfRange 0x00 0 := by
  simp only [laneResponse, Lane.fetch, h, if_true]

/-- Check 1 answers where the offset is in range and fewer than 7 bytes are available (R89). -/
theorem laneResponse_of_avail_lt (l : Lane) (h : l.reqOffset ≤ l.bufLen) (h7 : l.avail < 7) :
    laneResponse l = Response.error .incomplete 0x00 7 := by
  simp only [laneResponse, Lane.fetch, Nat.not_lt.2 h, h7, if_true, if_false]

/-- A response that is no structural error marks no host (R139, log entry 27). -/
theorem State.noteError_eq_self (s : State) (h : structuralCode s.dec.resp.status = false) : s.noteError = s := by
  unfold State.noteError
  split
  · rfl
  · rw [h, if_neg Bool.false_ne_true]

/-- A Complete step whose response is no structural error changes nothing but the instance. -/
theorem step_of_decoderReady_not_structural (s s' : State) (r : Response) (hr : s.decoderReady s') (h : laneResponse s'.lane = r)
    (hc : structuralCode r.status = false) : step s = .next (s'.completed r) := by
  rw [step_of_decoderReady s s' hr, h, State.noteError_eq_self (s'.completed r) hc]

/-- Settles O11: check 1 answers whatever the bytes are, and INCOMPLETE is no structural error. -/
theorem shortHeaderIsIncomplete : Obligations.ShortHeaderIsIncomplete := by
  intro s s' hr hle h7
  exact step_of_decoderReady_not_structural s s' _ hr (laneResponse_of_avail_lt s'.lane hle h7) rfl

/-- Settles O10: check 0 answers beyond BUF_LEN; at BUF_LEN no byte is available, so that check 1 answers. -/
theorem offsetBeyondBufferIsReported : Obligations.OffsetBeyondBufferIsReported := by
  intro s s' hr
  constructor
  · intro hlt
    exact step_of_decoderReady_not_structural s s' _ hr (laneResponse_of_bufLen_lt s'.lane hlt) rfl
  · intro he
    exact shortHeaderIsIncomplete s s' hr (by omega) (by omega)

/-- `Kind` takes no tag but the four of R69 (R105). -/
theorem kind_eq_none (b : Byte) (h1 : b ≠ 0x01#8) (h2 : b ≠ 0x02#8) (h3 : b ≠ 0x03#8) (h8 : b ≠ 0x08#8) : kind b = none := by
  unfold kind
  rw [if_neg h1, if_neg h2, if_neg h3, if_neg h8]

/-- Settles O19: `Kind` of the tag is none, so that check 2 answers from the header alone. -/
theorem illegalTagIsReportedFromHeader : Obligations.IllegalTagIsReportedFromHeader := by
  intro s s' hr h7 h1 h2 h3 h8
  have hresp : laneResponse s'.lane = Response.error .unknownType (Memory.read s'.lane.buf s'.dec.reqOffset) 0 := by
    rw [laneResponse_eq_decodeFn, decodeFn_of_header s'.lane h7, State.lane_toDecoder, kind_eq_none _ h1 h2 h3 h8, Option.elim_none]
  refine ⟨_, step_of_decoderReady s s' hr, ?_⟩
  simp [hresp]

/-! ## A known frame, checks 3 to 5 -/

section known

variable (l : Lane) (t : FrameType) (ch : Channel) (len : Length)

/-- Check 3 (R92). -/
theorem knownResponse_of_frameMax_lt (h : l.params.frameMax.toNat < len.toNat) :
    knownResponse l t ch len = Response.error .frameTooLarge 0x00 0 :=
  if_pos h

/-- Check 4 (R93). -/
theorem knownResponse_of_avail_lt (hmax : len.toNat ≤ l.params.frameMax.toNat) (h : l.avail - 7 < len.toNat + 1) :
    knownResponse l t ch len = Response.error .incomplete 0x00 (needOf len) := by
  rw [knownResponse, if_neg (Nat.not_lt.2 hmax), if_pos h]

/-- Past checks 3 and 4 the byte at `o + 7 + L` decides between check 5 and the success response (R94, R100). -/
theorem knownResponse_of_fits (hmax : len.toNat ≤ l.params.frameMax.toNat) (hfit : l.reqOffset + 7 + len.toNat + 1 ≤ l.bufLen) :
    knownResponse l t ch len =
      if Memory.read l.buf (l.reqOffset + 7 + len.toNat) ≠ 0xCE then
        Response.error .invalidEnd (Memory.read l.buf (l.reqOffset + 7 + len.toNat)) 0
      else Response.success l.reqOffset t ch len (Memory.slice l.buf (l.reqOffset + 7) len.toNat) := by
  have h4 : ¬ l.avail - 7 < len.toNat + 1 := by simp only [Lane.avail]; omega
  rw [knownResponse, if_neg (Nat.not_lt.2 hmax), if_neg h4]
  rfl

end known

/-- The instruction of a known frame type completes from BUSY with the known frame's response. -/
theorem exec_instr_of_busy (ft : FrameType) (ch : Channel) (len : Length) (s : State) (hb : s.dec.ctrl = ctrlBusy) :
    exec (ft.instr ch len) s = .next (s.completed (knownResponse s.lane ft ch len)) := by
  rw [exec_eq_next, instrResponse_instr]
  exact ⟨hb, rfl⟩

/-- Settles O15: check 3 comes before check 4, so no condition on the available bytes is needed. -/
theorem lengthAboveFrameMaxIsTooLarge : Obligations.LengthAboveFrameMaxIsTooLarge := by
  intro ft ch len s hb hmax
  rw [exec_instr_of_busy ft ch len s hb, knownResponse_of_frameMax_lt s.lane ft ch len hmax]

/-- Settles O16: the need of check 4 is exact, since 33 bits hold it. -/
theorem shortPayloadIsIncomplete : Obligations.ShortPayloadIsIncomplete := by
  intro ft ch len s hb hmax hshort
  refine ⟨needOf len, needOf_toNat len, ?_⟩
  rw [exec_instr_of_busy ft ch len s hb, knownResponse_of_avail_lt s.lane ft ch len hmax hshort]

/-- Settles O17: past checks 3 and 4, an end byte other than 0xCE is the diagnostic of check 5. -/
theorem wrongEndByteIsInvalidEnd : Obligations.WrongEndByteIsInvalidEnd := by
  intro ft ch len s hb hmax hfit hend
  have hresp : knownResponse s.lane ft ch len =
      Response.error .invalidEnd (Memory.read (s.buffer s.dec.bufId) (s.dec.reqOffset + 7 + len.toNat)) 0 :=
    (knownResponse_of_fits s.lane ft ch len hmax hfit).trans (if_pos hend)
  rw [exec_instr_of_busy ft ch len s hb, hresp]

/-- Settles O14: past checks 3 to 5 the response is the success response, whose registers are those of R100. -/
theorem knownFrameSuccessResponse : Obligations.KnownFrameSuccessResponse := by
  intro ft ch len s hb hmax hfit hend
  have hresp : knownResponse s.lane ft ch len =
      Response.success s.dec.reqOffset ft ch len (Memory.slice (s.buffer s.dec.bufId) (s.dec.reqOffset + 7) len.toNat) :=
    (knownResponse_of_fits s.lane ft ch len hmax hfit).trans (if_neg (not_not.2 hend))
  refine ⟨_, exec_instr_of_busy ft ch len s hb, ?_⟩
  simp [hresp, Status.code, frameLength, ctrlDone]

/-- Settles O22: only a known frame that passes every check has status OK, and its response is the success response. -/
theorem consumedAndPayloadOfSuccess : Obligations.ConsumedAndPayloadOfSuccess := by
  intro i s t he hok
  obtain ⟨_, rfl⟩ := (exec_eq_next i s t).1 he
  obtain ⟨ft, ch, len, _, _, hfit, _, hresp⟩ := instrResponse_ok s.lane i hok
  simp only [State.lane_toDecoder, State.lane_buf] at hfit hresp
  simp only [State.completed_dec, Decoder.complete_resp, hresp, Response.success_consumed, Response.success_length,
    Response.success_payload, frameLength, Memory.length_slice]
  refine ⟨by omega, by omega, by omega, trivial, fun j hj => ?_⟩
  rw [Memory.getElem?_slice, if_pos hj]

/-! ## DECODE as a whole -/

/-- Settles O24: the step writes the lane's response, which is `DecodeFn` of R86; besides the instance it can change a host's mark alone. -/
theorem completeStepIsDecodeFn : Obligations.CompleteStepIsDecodeFn := by
  intro s s' hr
  refine ⟨_, step_of_decoderReady s s' hr, ?_⟩
  simp [laneResponse_eq_decodeFn]

/-- A known frame's response rests on the registers and, past checks 3 and 4, on the payload and the end byte alone (R51, R98). -/
theorem knownResponse_congr (l l' : Lane) (t : FrameType) (ch : Channel) (len : Length) (hn : l'.bufLen = l.bufLen)
    (ho : l'.reqOffset = l.reqOffset) (hm : l'.params.frameMax = l.params.frameMax)
    (hr : len.toNat ≤ l.params.frameMax.toNat → l.reqOffset + 7 + len.toNat + 1 ≤ l.bufLen →
      ∀ a : Nat, l.reqOffset + 7 ≤ a → a ≤ l.reqOffset + 7 + len.toNat → Memory.read l'.buf a = Memory.read l.buf a) :
    knownResponse l' t ch len = knownResponse l t ch len := by
  by_cases hmax : l.params.frameMax.toNat < len.toNat
  · rw [knownResponse_of_frameMax_lt l t ch len hmax, knownResponse_of_frameMax_lt l' t ch len (by rwa [hm])]
  have hmax := Nat.not_lt.1 hmax
  by_cases hav : l.avail - 7 < len.toNat + 1
  · rw [knownResponse_of_avail_lt l t ch len hmax hav,
      knownResponse_of_avail_lt l' t ch len (by rwa [hm]) (by rwa [Lane.avail, hn, ho])]
  have hfit : l.reqOffset + 7 + len.toNat + 1 ≤ l.bufLen := by simp only [Lane.avail] at hav; omega
  have hread := hr hmax hfit
  have hend := hread (l.reqOffset + 7 + len.toNat) (by omega) le_rfl
  have hpay : Memory.slice l'.buf (l.reqOffset + 7) len.toNat = Memory.slice l.buf (l.reqOffset + 7) len.toNat :=
    Memory.slice_congr _ _ _ _ fun a ha hlt => hread a ha (by omega)
  rw [knownResponse_of_fits l t ch len hmax hfit, knownResponse_of_fits l' t ch len (by rwa [hm]) (by rwa [hn, ho]), ho, hend, hpay]

/-- Settles O26: checks 0 and 1 read no byte, the header decides check 2, and past it the response is that of a known frame. -/
theorem onlyFrameBytesMatter : Obligations.OnlyFrameBytesMatter := by
  intro l l' len hb hb' hn ho hm hlen hhead hframe
  rw [completeResponse_of_busy l hb, completeResponse_of_busy l' hb']
  congr 1
  by_cases hlt : l.bufLen < l.reqOffset
  · rw [laneResponse_of_bufLen_lt l hlt, laneResponse_of_bufLen_lt l' (by rwa [hn, ho])]
  by_cases hav : l.avail < 7
  · rw [laneResponse_of_avail_lt l (Nat.not_lt.1 hlt) hav,
      laneResponse_of_avail_lt l' (by rw [hn, ho]; exact Nat.not_lt.1 hlt) (by rwa [Lane.avail, hn, ho])]
  have h7 : l.reqOffset + 7 ≤ l.bufLen := by simp only [Lane.avail] at hav; omega
  have hread : ∀ k < 7, Memory.read l'.buf (l.reqOffset + k) = Memory.read l.buf (l.reqOffset + k) := fun k hk =>
    hhead h7 _ (by omega) (by omega)
  have htag : Memory.read l'.buf l.reqOffset = Memory.read l.buf l.reqOffset := hread 0 (by omega)
  rw [laneResponse_eq_decodeFn, laneResponse_eq_decodeFn, decodeFn_of_header l h7, decodeFn_of_header l' (by rwa [hn, ho]), ho, htag,
    hread 1 (by omega), hread 2 (by omega), hread 3 (by omega), hread 4 (by omega), hread 5 (by omega), hread 6 (by omega), ← hlen]
  cases hk : kind (Memory.read l.buf l.reqOffset) with
  | none => rfl
  | some t => exact knownResponse_congr l l' t _ len hn ho hm (hframe (by rw [hk]; rfl))

/-! ## Accept -/

/-- The step of a request, or of the first turn of a DECODE line (R84, R127): Accept from a state other than BUSY, with the requester kept; the host's cursor
is not moved. -/
theorem step_of_request (s s' : State) (no : Nat) (h : HostAgent) (o : OffsetArg)
    (hr : s.hostReady s' no h (.request o) ∨ s.hostReady s' no h (.decode o) ∧ h.awaiting = false) (hb : s'.dec.ctrl ≠ ctrlBusy)
    (ho : o.value h < 2 ^ s'.dec.params.addrWidth) :
    ∃ h' : HostAgent, h'.cur = h.cur ∧
      step s = .next (State.setHost { s' with dec := { s'.dec.accept (o.value h) with requester := some no } } no h') := by
  have hv := OffsetArg.value_uses o h s'.focused
  rcases hr with hr | ⟨hr, haw⟩
  · refine ⟨(h.uses s'.focused).nextLine, HostAgent.uses_cur h _, step_of_hostReady_next s s' _ no h _ _ hr ?_⟩
    rw [hostAct, hostRequest_eq_next, hv]
    exact ⟨rfl, hb, ho, rfl⟩
  · refine ⟨{ h.uses s'.focused with awaiting := true }, HostAgent.uses_cur h _, step_of_hostReady_next s s' _ no h _ _ hr ?_⟩
    rw [hostAct, hostDecode_eq_next, hv]
    exact .inr ⟨(HostAgent.uses_awaiting h _).trans haw, hb, ho, rfl, rfl⟩

/-- A request of a BUSY instance is refused (R138 (a)). -/
theorem Decoder.request_of_busy (d : Decoder) (no o : Nat) (h : d.ctrl = ctrlBusy) : d.request no o = .refused .requestWhileBusy :=
  if_pos h

/-- While BUSY there is no step of a request, nor of the first turn of a DECODE line (R138 (a)). -/
theorem step_of_request_of_busy (s s' : State) (no : Nat) (h : HostAgent) (o : OffsetArg)
    (hr : s.hostReady s' no h (.request o) ∨ s.hostReady s' no h (.decode o) ∧ h.awaiting = false) (hb : s'.dec.ctrl = ctrlBusy) :
    step s = .refused .requestWhileBusy := by
  rcases hr with hr | ⟨hr, haw⟩
  · refine step_of_hostReady_refused s s' no h _ _ hr ?_
    simp [hostAct, hostRequest, Decoder.request_of_busy _ _ _ hb]
  · refine step_of_hostReady_refused s s' no h _ _ hr ?_
    simp [hostAct, hostDecode, haw, Decoder.request_of_busy _ _ _ hb]

/-- Settles O38: from IDLE and DONE the step is Accept of the offset; while BUSY it is refused. -/
theorem acceptRegisters : Obligations.AcceptRegisters := by
  intro s s' no h o hr
  constructor
  · intro hc ho
    have hb : s'.dec.ctrl ≠ ctrlBusy := by rcases hc with hc | hc <;> rw [hc] <;> decide
    obtain ⟨h', hcur, hstep⟩ := step_of_request s s' no h o hr hb ho
    refine ⟨_, h', hstep, ?_⟩
    simp [Response.zero, ctrlBusy, hcur]
  · intro hb t ht
    rw [step_of_request_of_busy s s' no h o hr hb] at ht
    contradiction

end Sys2Proof.Machine
end

section
/-!
PROOFS. The reference encoder: when it fails (R117), and the bytes that it gives (R118, R119).
-/

namespace Sys2Proof.Machine

/-- `Kind` fails on exactly the tags other than the four of R69 (R105). -/
theorem kind_eq_none_iff (b : Byte) : kind b = none ↔ b ≠ 0x01 ∧ b ≠ 0x02 ∧ b ≠ 0x03 ∧ b ≠ 0x08 := by
  constructor
  · intro h
    refine ⟨?_, ?_, ?_, ?_⟩ <;> rintro rfl <;> contradiction
  · rintro ⟨h1, h2, h3, h8⟩
    exact kind_eq_none b h1 h2 h3 h8

/-- The encoder fails where `Kind` of the tag fails or the length field does not hold the payload's length (R117). -/
theorem encodeRef_eq_none_iff (tag : Byte) (ch : Channel) (payload : List Byte) :
    encodeRef tag ch payload = none ↔ kind tag = none ∨ 2 ^ 32 - 1 < payload.length := by
  rw [encodeRef, ite_eq_right_iff, imp_iff_not (Option.some_ne_none _), not_and_or, Option.not_isSome_iff_eq_none, Nat.not_le]

/-- The encoder succeeds where `Kind` takes the tag and the length field holds the payload's length; the frame is then that of R118. -/
theorem encodeRef_eq_some_iff (tag : Byte) (ch : Channel) (payload b : List Byte) :
    encodeRef tag ch payload = some b ↔
      ((kind tag).isSome ∧ payload.length ≤ 2 ^ 32 - 1) ∧
        frameBytes tag ch (BitVec.ofNat 32 payload.length) payload frameEnd = b := by
  rw [encodeRef, Option.ite_none_right_eq_some, Option.some_inj]

/-- A frame takes 7 header bytes, the payload and the end byte (R119). -/
theorem length_frameBytes (tag : Byte) (ch : Channel) (len : Length) (payload : List Byte) (e : Byte) :
    (frameBytes tag ch len payload e).length = 7 + payload.length + 1 := by
  simp only [frameBytes, bytes16, bytes32, List.length_append, List.length_cons, List.length_nil]

/-- The two bytes of `bytes16` have its argument as their big-endian value (R10, R49). -/
theorem bytes16_eq_pair (v : BitVec 16) : ∃ c0 c1 : Byte, bytes16 v = [c0, c1] ∧ v.toNat = 256 * c0.toNat + c1.toNat :=
  ⟨_, _, rfl, by rw [← toNat_be16, be16_extract]⟩

/-- The four bytes of `bytes32` have its argument as their big-endian value (R10, R49). -/
theorem bytes32_eq_quadruple (v : BitVec 32) :
    ∃ l0 l1 l2 l3 : Byte, bytes32 v = [l0, l1, l2, l3] ∧
      v.toNat = 16777216 * l0.toNat + 65536 * l1.toNat + 256 * l2.toNat + l3.toNat :=
  ⟨_, _, _, _, rfl, by rw [← toNat_be32, be32_extract]⟩

/-- Settles O31: the encoder's guard asks `Kind` of the tag and the payload's length, and nothing else. -/
theorem encodeRefFailsExactlyOnInvalidFrame : Obligations.EncodeRefFailsExactlyOnInvalidFrame := by
  intro tag ch payload
  rw [encodeRef_eq_none_iff, kind_eq_none_iff]

/-- Settles O32: the bytes are those of the frame, and its length field holds the payload's length, which the guard bounds by 2^32 - 1. -/
theorem encodeRefBytes : Obligations.EncodeRefBytes := by
  intro tag ch payload b h
  obtain ⟨⟨_, hlen⟩, rfl⟩ := (encodeRef_eq_some_iff tag ch payload b).1 h
  have hfield : (BitVec.ofNat 32 payload.length).toNat = payload.length := (BitVec.toNat_ofNat _ _).trans (Nat.mod_eq_of_lt (by omega))
  obtain ⟨c0, c1, hc, hch⟩ := bytes16_eq_pair ch
  obtain ⟨l0, l1, l2, l3, hl, hval⟩ := bytes32_eq_quadruple (BitVec.ofNat 32 payload.length)
  refine ⟨length_frameBytes _ _ _ _ _, c0, c1, l0, l1, l2, l3, ?_, hch, hfield.symm.trans hval⟩
  rw [frameBytes, hc, hl]
  rfl

end Sys2Proof.Machine
end

section
/-!
PROOFS. The error response as a whole: the machine after `raise` from BUSY (R142), which lends no window (R150).
-/

namespace Sys2Proof.Machine

/-- OK is the only status of code 0 (R140). -/
theorem Status.code_eq_ok_code_iff (st : Status) : st.code = Status.ok.code ↔ st = .ok := by
  cases st <;> decide

/-- An error response presents no frame, so it lends no window in either payload mode (R131, R150). -/
theorem Decoder.lend_error (d : Decoder) (st : Status) (x : Byte) (k : BitVec 33) (h : st ≠ .ok) :
    d.lend (Response.error st x k) = d.borrowed :=
  if_neg fun ⟨_, hok⟩ => h ((Status.code_eq_ok_code_iff st).1 hok)

/-- `raise` from BUSY completes the instance in focus with the error response (R85, R142). -/
theorem State.onLane_raise_of_busy (s : State) (st : Status) (x : Byte) (k : BitVec 33) (h : s.dec.ctrl = ctrlBusy) :
    s.onLane (s.lane.raise st x k) = .next (s.completed (Response.error st x k)) :=
  congrArg s.onLane (s.lane.raise_of_busy st x k h)

/-- Settles O12: the step is Complete with the error response, and as its status is not OK the windows on loan stay as they are. -/
theorem errorResponseRegisters : Obligations.ErrorResponseRegisters := by
  intro s st x k hb hst
  refine ⟨_, s.onLane_raise_of_busy st x k hb, rfl, ?_⟩
  simp [Decoder.lend_error s.dec st x k hst, ctrlDone]

end Sys2Proof.Machine
end

section
/-!
PROOFS. What every step keeps of each instance: what no `DecStep` changes is one list before and after, the parameters above all (R164).
-/

namespace Sys2Proof.Machine

/-- A property of an instance that no `DecStep` changes has the same values, instance by instance, before and after a step. -/
theorem step_map_decs_of_decStep_keeps {α : Type} (f : Decoder → α)
    (hf : ∀ {s : State} {j : Nat} {d d' : Decoder}, DecStep s j d d' → f d' = f d) (s t : State) (e : step s = .next t) : t.decs.map f = s.decs.map f := by
  have hlen : t.decs.length = s.decs.length := (step_shape s t e).1
  refine List.ext_getElem (by simp [hlen]) fun j _ _ => ?_
  rw [List.getElem_map, List.getElem_map]
  exact hf (step_dec s t j _ _ e (List.getElem?_eq_getElem _) (List.getElem?_eq_getElem _))

/-- Settles O46: each instance takes one `DecStep` at most, and none of them writes the parameters. -/
theorem parametersNeverChange : Obligations.ParametersNeverChange :=
  step_map_decs_of_decStep_keeps (fun d => d.params) fun h => h.keeps.1

end Sys2Proof.Machine
end

section
/-!
PROOFS. The header decoder and the encoder: each undoes the other (R64, R69, R70, R90), and the rows of the opcode table share no tag (R14).
-/

namespace Sys2Proof

/-- A row with the full mask matches its own value alone (R69). -/
theorem tagMatches_full_mask (b tag : Byte) : tagMatches (b, 0xFF#8) tag = true ↔ tag = b := by
  have hmask : tag &&& 0xFF#8 = tag := BitVec.and_allOnes
  rw [tagMatches, hmask, beq_iff_eq]

/-- Two rows that match one tag agree on the bits that both masks take. -/
theorem and_mask_eq_of_tagMatches {r r' : Byte × Byte} {tag : Byte} (h : tagMatches r tag = true) (h' : tagMatches r' tag = true) :
    r.1 &&& r'.2 = r'.1 &&& r.2 := by
  rw [tagMatches, beq_iff_eq] at h h'
  rw [← h, ← h', BitVec.and_assoc, BitVec.and_assoc, BitVec.and_comm r.2]

/-- The rows of two match values and masks disagree on some bit that both masks take. -/
def rowsDisagree (r r' : Byte × Byte) : Prop := r.1 &&& r'.2 ≠ r'.1 &&& r.2

/-- Any two rows of the opcode table disagree (R14). -/
theorem opcodeRows_pairwise_disagree : opcodeRows.Pairwise rowsDisagree := by
  unfold opcodeRows rowsDisagree
  decide

/-- No other row of the opcode table matches a tag that one row matches (R14). -/
theorem tagMatches_eq_false_of_ne {r : Byte × Byte} {tag : Byte} (hr : r ∈ opcodeRows) (h : tagMatches r tag = true) :
    ∀ r' ∈ opcodeRows, r' ≠ r → tagMatches r' tag = false := fun _ hr' hne =>
  have : Std.Symm rowsDisagree := ⟨fun _ _ => Ne.symm⟩
  Bool.eq_false_iff.2 fun h' => opcodeRows_pairwise_disagree.forall hr' hr hne (and_mask_eq_of_tagMatches h' h)

/-- The decoder's row choice undoes `Instr.tag`: no test before the instruction's own row takes its tag. -/
theorem decodeTag_tag (i : Instr) (hw : i.wellFormed = true) : decodeTag i.tag i.channel i.length = .ok i := by
  cases i
  case method | header | body | heartbeat | unknown00 => rfl
  case unknown09 ch len => simp [decodeTag, tagMatches, Instr.tag, Instr.channel, Instr.length]
  case unknown04 tag ch len | unknown0A tag ch len | unknown0C tag ch len | unknown10 tag ch len | unknown20 tag ch len
      | unknown40 tag ch len | unknown80 tag ch len =>
    have hown : tagMatches _ tag = true := hw
    have hother := tagMatches_eq_false_of_ne (by simp [opcodeRows]) hown
    simp [opcodeRows] at hother
    simp [decodeTag, Instr.tag, Instr.channel, Instr.length, ← tagMatches_full_mask, hother, hown]

/-- The encoding of an instruction, byte by byte in the order of R64. -/
theorem encode_eq (i : Instr) :
    encode i = [i.tag, i.channel.extractLsb' 8 8, i.channel.extractLsb' 0 8, i.length.extractLsb' 24 8, i.length.extractLsb' 16 8,
      i.length.extractLsb' 8 8, i.length.extractLsb' 0 8] := rfl

/-- Settles O1: the two fields are put together again from their bytes, and the tag chooses the instruction's own row. -/
theorem decodeOfEncodeGivesInstruction : Obligations.DecodeOfEncodeGivesInstruction := by
  intro i rest hw
  rw [encode_eq]
  simp only [List.cons_append, List.nil_append, decode, be16_extract, be32_extract, decodeTag_tag i hw, Except.map]

/-- Seven bytes and more decode to a well-formed instruction with these fields, and the rest is left over. -/
theorem decode_cons (t c0 c1 l0 l1 l2 l3 : Byte) (rest : List Byte) :
    ∃ i : Instr, decode (t :: c0 :: c1 :: l0 :: l1 :: l2 :: l3 :: rest) = .ok (i, rest) ∧ i.wellFormed = true ∧
      encode i = [t, c0, c1, l0, l1, l2, l3] := by
  obtain ⟨i, hi, rfl, hch, hlen, hw⟩ := Machine.decodeTag_ok t (be16 c0 c1) (be32 l0 l1 l2 l3)
  refine ⟨i, by simp only [decode, hi, Except.map], hw, ?_⟩
  rw [encode, hch, hlen, bytes16_be16, bytes32_be32]
  rfl

/-- A byte list is a header with the bytes after it, or the decoder refuses it as too short (R74, R89). -/
theorem decode_cases (bs : List Byte) :
    (bs.length < 7 ∧ decode bs = .error .shortHeader) ∨
      ∃ t c0 c1 l0 l1 l2 l3 rest, bs = t :: c0 :: c1 :: l0 :: l1 :: l2 :: l3 :: rest := by
  match bs with
  | t :: c0 :: c1 :: l0 :: l1 :: l2 :: l3 :: rest => exact .inr ⟨t, c0, c1, l0, l1, l2, l3, rest, rfl⟩
  | [] | [_] | [_, _] | [_, _, _] | [_, _, _, _] | [_, _, _, _, _] | [_, _, _, _, _, _] => exact .inl ⟨by simp, rfl⟩

/-- Settles O2: what the decoder accepts has seven bytes, and the instruction's encoding is these seven. -/
theorem encodeOfDecodeGivesBytes : Obligations.EncodeOfDecodeGivesBytes := by
  intro bs rest i h
  rcases decode_cases bs with ⟨_, hshort⟩ | ⟨t, c0, c1, l0, l1, l2, l3, rest', rfl⟩
  · rw [hshort] at h
    contradiction
  · obtain ⟨i', hi', hw, henc⟩ := decode_cons t c0 c1 l0 l1 l2 l3 rest'
    rw [hi'] at h
    cases h
    exact ⟨hw, by rw [henc]; rfl⟩

/-- Settles O3: a list of fewer than seven bytes is no header, and a header decodes. -/
theorem decodeNeedsSevenBytes : Obligations.DecodeNeedsSevenBytes := by
  intro bs
  rcases decode_cases bs with ⟨hlt, hshort⟩ | ⟨t, c0, c1, l0, l1, l2, l3, rest, rfl⟩
  · exact ⟨fun _ => hshort, fun h => absurd hlt (Nat.not_lt.2 h)⟩
  · obtain ⟨i, hi, _⟩ := decode_cons t c0 c1 l0 l1 l2 l3 rest
    refine ⟨fun h => ?_, fun _ => ⟨i, hi⟩⟩
    simp only [List.length_cons] at h
    omega

/-- Settles O4: the 256 tags are all the cases there are. -/
theorem everyTagMatchesExactlyOneRow : Obligations.EveryTagMatchesExactlyOneRow := by
  unfold Obligations.EveryTagMatchesExactlyOneRow
  decide

/-- Settles O5: the decoder is run on the six headers. -/
theorem writtenOutHeadersDecode : Obligations.WrittenOutHeadersDecode := by
  refine ⟨?_, ?_, ?_, ?_, ?_, ?_⟩ <;> rfl

end Sys2Proof

namespace Sys2Proof.Machine

/-- Settles O13: the codes are those of the definitions, and `Kind` is none at every other tag. -/
theorem statusAndDispatchCodes : Obligations.StatusAndDispatchCodes := by
  refine ⟨rfl, rfl, rfl, rfl, rfl, rfl, rfl, rfl, rfl, rfl, rfl, rfl, rfl, rfl, ?_⟩
  exact kind_eq_none

end Sys2Proof.Machine
end

section
/-!
PROOFS. The response as a function of the bytes from the request offset on, and what follows from it: the round trips with the reference encoder (R122), the
answers to damaged frames (R103, R123), stability under extension (R102), position independence, and the bounds of RESP_NEED and RESP_PAYLOAD (R62, R137).
-/

namespace Sys2Proof.Machine

/-- Different statuses have different codes (R140). -/
@[simp] theorem Status.code_inj {st st' : Status} : st.code = st'.code ↔ st = st' := by
  cases st <;> cases st' <;> decide

/-! ## The bytes from the request offset on -/

/-- Checks 3 to 5 and the success response, on the bytes after the header (R92 to R100). -/
def bodyResponse (o : Nat) (frameMax : Length) (t : FrameType) (ch : Channel) (len : Length) (body : List Byte) : Response :=
  if frameMax.toNat < len.toNat then Response.error .frameTooLarge 0x00 0
  else if body.length < len.toNat + 1 then Response.error .incomplete 0x00 (needOf len)
  else if body.getD len.toNat 0 ≠ frameEnd then Response.error .invalidEnd (body.getD len.toNat 0) 0
  else Response.success o t ch len (body.take len.toNat)

/-- Checks 1 to 5 and the success response, on the bytes from the request offset on (R89 to R100). -/
def frameResponse (o : Nat) (frameMax : Length) : List Byte → Response
  | t :: c0 :: c1 :: l0 :: l1 :: l2 :: l3 :: body =>
    (kind t).elim (Response.error .unknownType t 0) (fun ft => bodyResponse o frameMax ft (be16 c0 c1) (be32 l0 l1 l2 l3) body)
  | _ => Response.error .incomplete 0x00 7

/-- Check 1 (R89). -/
theorem frameResponse_of_short (o : Nat) (frameMax : Length) (xs : List Byte) (h : xs.length < 7) :
    frameResponse o frameMax xs = Response.error .incomplete 0x00 7 := by
  unfold frameResponse
  split
  · simp only [List.length_cons] at h
    omega
  · rfl

/-- `DecodeFn` answers check 0, or what the bytes from the offset on give (R86). -/
theorem decodeFn_eq_frameResponse (buf : List Byte) (o : Nat) (frameMax : Length) :
    decodeFn buf o frameMax =
      if buf.length < o then Response.error .offsetOutOfRange 0x00 0 else frameResponse o frameMax (buf.drop o) := by
  unfold decodeFn
  by_cases h0 : buf.length < o
  · rw [if_pos h0, if_pos h0]
  rw [if_neg h0, if_neg h0]
  by_cases h7 : buf.length - o < 7
  · rw [if_pos h7, frameResponse_of_short _ _ _ (by simpa using h7)]
  rw [if_neg h7]
  rcases decode_cases (buf.drop o) with ⟨h, _⟩ | ⟨t, c0, c1, l0, l1, l2, l3, body, hx⟩
  · rw [List.length_drop] at h; contradiction
  have hbyte : ∀ k, byteAt buf (o + k) = (buf.drop o).getD k 0 := fun k => by simp [byteAt, List.getD]
  have hlen : body.length = buf.length - o - 7 := by
    have := congrArg List.length hx
    simp only [List.length_drop, List.length_cons] at this
    omega
  have hdrop : buf.drop (o + 7) = body := by rw [← List.drop_drop, hx]; rfl
  have hend : ∀ n, byteAt buf (o + 7 + n) = body.getD n 0 := fun n => by simp [byteAt, List.getD, ← hdrop]
  have ht : byteAt buf o = t := by rw [← Nat.add_zero o, hbyte, hx]; rfl
  simp only [ht, hbyte, hend, hx, hdrop, frameResponse, List.getD_cons_succ, List.getD_cons_zero]
  cases kind t with
  | none => rfl
  | some ft =>
    simp only [Option.elim_some, bodyResponse, hlen, needOf, frameLength, ite_not]
    rfl

/-- The response of a lane's Complete, where the request offset is in range. -/
theorem laneResponse_eq_frameResponse (l : Lane) (h : l.reqOffset ≤ l.bufLen) :
    laneResponse l = frameResponse l.reqOffset l.params.frameMax (l.bytes.drop l.reqOffset) := by
  rw [laneResponse_eq_decodeFn, decodeFn_eq_frameResponse, Lane.length_bytes, if_neg (Nat.not_lt.2 h)]

/-- A lane whose buffer is `pre ++ xs`, at the offset of `xs`, answers what `xs` gives. -/
theorem laneResponse_of_bytes_append (l : Lane) (pre xs : List Byte) (hb : l.bytes = pre ++ xs) (ho : l.reqOffset = pre.length) :
    laneResponse l = frameResponse pre.length l.params.frameMax xs := by
  have hle : l.reqOffset ≤ l.bufLen := by
    rw [← Lane.length_bytes, hb, ho, List.length_append]
    exact Nat.le_add_right _ _
  rw [laneResponse_eq_frameResponse l hle, hb, ho, List.drop_left]

/-- What a lane's Complete answers is its response, and it completes from BUSY alone. -/
theorem completeResponse_eq_some (l : Lane) (r : Response) :
    completeResponse l = some r ↔ l.ctrl = ctrlBusy ∧ laneResponse l = r := by
  by_cases hb : l.ctrl = ctrlBusy
  · rw [completeResponse_of_busy l hb]
    simp [hb]
  · simp [completeResponse, hb]

/-! ## Checks 3 to 5, on the bytes after the header -/

section body

variable (o : Nat) (frameMax : Length) (t : FrameType) (ch : Channel) (len : Length) (body : List Byte)

/-- Check 3 (R92). -/
theorem bodyResponse_of_frameMax_lt (h : frameMax.toNat < len.toNat) :
    bodyResponse o frameMax t ch len body = Response.error .frameTooLarge 0x00 0 :=
  if_pos h

/-- Check 4 (R93). -/
theorem bodyResponse_of_short (hmax : len.toNat ≤ frameMax.toNat) (h : body.length < len.toNat + 1) :
    bodyResponse o frameMax t ch len body = Response.error .incomplete 0x00 (needOf len) := by
  rw [bodyResponse, if_neg (Nat.not_lt.2 hmax), if_pos h]

/-- Past checks 3 and 4 the byte after the payload decides (R94, R100). -/
theorem bodyResponse_of_fits (hmax : len.toNat ≤ frameMax.toNat) (h : len.toNat + 1 ≤ body.length) :
    bodyResponse o frameMax t ch len body =
      if body.getD len.toNat 0 ≠ frameEnd then Response.error .invalidEnd (body.getD len.toNat 0) 0
      else Response.success o t ch len (body.take len.toNat) := by
  rw [bodyResponse, if_neg (Nat.not_lt.2 hmax), if_neg (Nat.not_lt.2 h)]

/-- Status OK means that every check has passed. -/
theorem bodyResponse_ok (h : (bodyResponse o frameMax t ch len body).status = Status.ok.code) :
    len.toNat + 1 ≤ body.length ∧ body.getD len.toNat 0 = frameEnd ∧
      bodyResponse o frameMax t ch len body = Response.success o t ch len (body.take len.toNat) := by
  unfold bodyResponse at h ⊢
  split_ifs at h ⊢ with hmax hfit hend
  · simp at h
  · simp at h
  · simp at h
  · exact ⟨Nat.not_lt.1 hfit, not_not.1 hend, rfl⟩

/-- Status INCOMPLETE is the answer of check 4. -/
theorem bodyResponse_incomplete_iff :
    (bodyResponse o frameMax t ch len body).status = Status.incomplete.code ↔
      len.toNat ≤ frameMax.toNat ∧ body.length < len.toNat + 1 := by
  unfold bodyResponse
  split_ifs with hmax hfit hend
  · simp [hmax]
  · simp [hfit, Nat.not_lt.1 hmax]
  · simp [hfit]
  · simp [hfit]

/-- Bytes appended after the body change no response but INCOMPLETE (R102 (a)). -/
theorem bodyResponse_append (ext : List Byte) (h : (bodyResponse o frameMax t ch len body).status ≠ Status.incomplete.code) :
    bodyResponse o frameMax t ch len (body ++ ext) = bodyResponse o frameMax t ch len body := by
  by_cases hmax : frameMax.toNat < len.toNat
  · rw [bodyResponse_of_frameMax_lt _ _ _ _ _ _ hmax, bodyResponse_of_frameMax_lt _ _ _ _ _ _ hmax]
  have hmax := Nat.not_lt.1 hmax
  have hfit : len.toNat + 1 ≤ body.length := by
    by_contra hshort
    exact h ((bodyResponse_incomplete_iff o frameMax t ch len body).2 ⟨hmax, Nat.not_le.1 hshort⟩)
  have hfit' : len.toNat + 1 ≤ (body ++ ext).length := by rw [List.length_append]; omega
  rw [bodyResponse_of_fits _ _ _ _ _ _ hmax hfit, bodyResponse_of_fits _ _ _ _ _ _ hmax hfit', List.getD_append _ _ _ _ hfit,
    List.take_append_of_le_length (by omega)]

/-- Of the response, only RESP_PAYLOAD_START rests on the request offset. -/
theorem bodyResponse_offset (k : Nat) :
    bodyResponse o frameMax t ch len body =
      { bodyResponse (o + k) frameMax t ch len body with
        payloadStart := (bodyResponse (o + k) frameMax t ch len body).payloadStart - k } := by
  unfold bodyResponse
  split_ifs
  · simp [Response.error, Response.zero]
  · simp [Response.error, Response.zero]
  · simp [Response.error, Response.zero]
  · simp only [Response.success, Response.mk.injEq, true_and, and_true]
    omega

/-- A body that is a payload of the length that the header gives, an end byte and any bytes after it: check 5 decides on the end byte (R94, R100). -/
theorem bodyResponse_payload (payload post : List Byte) (e : Byte) (hlen : len.toNat = payload.length)
    (hmax : payload.length ≤ frameMax.toNat) :
    bodyResponse o frameMax t ch len (payload ++ e :: post) =
      if e ≠ frameEnd then Response.error .invalidEnd e 0 else Response.success o t ch len payload := by
  rw [bodyResponse_of_fits _ _ _ _ _ _ (hlen ▸ hmax) (by simp [hlen])]
  simp [hlen]

end body

/-! ## The header and what follows it -/

/-- On a header and the bytes after it, check 2 answers or the body decides (R91). -/
theorem frameResponse_header (o : Nat) (frameMax : Length) (tag : Byte) (ch : Channel) (len : Length) (body : List Byte) :
    frameResponse o frameMax ([tag] ++ bytes16 ch ++ bytes32 len ++ body) =
      (kind tag).elim (Response.error .unknownType tag 0) (fun ft => bodyResponse o frameMax ft ch len body) := by
  simp only [bytes16, bytes32, List.cons_append, List.nil_append, frameResponse, be16_extract, be32_extract]

/-- A byte list is too short for a header, or is the bytes of a header and those after it (R64, R74). -/
theorem short_or_header (xs : List Byte) :
    xs.length < 7 ∨ ∃ (tag : Byte) (ch : Channel) (len : Length) (body : List Byte),
      xs = [tag] ++ bytes16 ch ++ bytes32 len ++ body := by
  rcases decode_cases xs with ⟨h, _⟩ | ⟨t, c0, c1, l0, l1, l2, l3, body, rfl⟩
  · exact .inl h
  · exact .inr ⟨t, be16 c0 c1, be32 l0 l1 l2 l3, body, by rw [bytes16_be16, bytes32_be32]; rfl⟩

/-- The bytes of a header number 7 (R74). -/
theorem length_header_append (tag : Byte) (ch : Channel) (len : Length) (body : List Byte) :
    ([tag] ++ bytes16 ch ++ bytes32 len ++ body).length = 7 + body.length := by
  simp [bytes16, bytes32]
  omega

/-- Of the response, only RESP_PAYLOAD_START rests on the request offset. -/
theorem frameResponse_offset (o k : Nat) (frameMax : Length) (xs : List Byte) :
    frameResponse o frameMax xs =
      { frameResponse (o + k) frameMax xs with payloadStart := (frameResponse (o + k) frameMax xs).payloadStart - k } := by
  rcases short_or_header xs with h | ⟨tag, ch, len, body, rfl⟩
  · rw [frameResponse_of_short _ _ _ h, frameResponse_of_short _ _ _ h]
    simp [Response.error, Response.zero]
  rw [frameResponse_header, frameResponse_header]
  cases kind tag with
  | none => simp [Response.error, Response.zero]
  | some t => exact bodyResponse_offset o frameMax t ch len body k

/-- Settles O33: the bytes from the request offset on are the same, and only RESP_PAYLOAD_START rests on the offset itself. -/
theorem decodeIsPositionIndependent : Obligations.DecodeIsPositionIndependent := by
  intro l l' k r hb hb' hk hbytes ho hm hr
  obtain ⟨_, rfl⟩ := (completeResponse_eq_some l r).1 hr
  have hlen : l'.bufLen = l.bufLen - k := by rw [← l'.length_bytes, hbytes, List.length_drop, l.length_bytes]
  rw [completeResponse_of_busy l' hb']
  congr 1
  by_cases hlt : l.bufLen < l.reqOffset
  · rw [laneResponse_of_bufLen_lt l hlt, laneResponse_of_bufLen_lt l' (by omega)]
    simp [Response.error, Response.zero]
  · rw [laneResponse_eq_frameResponse l (by omega), laneResponse_eq_frameResponse l' (by omega), hbytes, List.drop_drop, hm, ho,
      Nat.add_comm k]
    exact frameResponse_offset _ _ _ _

/-- Bytes appended after a frame change no response but INCOMPLETE (R102 (a)). -/
theorem frameResponse_append (o : Nat) (frameMax : Length) (xs ext : List Byte)
    (h : (frameResponse o frameMax xs).status ≠ Status.incomplete.code) :
    frameResponse o frameMax (xs ++ ext) = frameResponse o frameMax xs := by
  rcases short_or_header xs with hs | ⟨tag, ch, len, body, rfl⟩
  · rw [frameResponse_of_short _ _ _ hs] at h
    exact absurd rfl h
  rw [List.append_assoc, frameResponse_header, frameResponse_header]
  rw [frameResponse_header] at h
  cases hk : kind tag with
  | none => rfl
  | some t =>
    rw [hk] at h
    exact bodyResponse_append o frameMax t ch len body ext h

/-- An INCOMPLETE asks for the 7 bytes of a header, or for the whole frame that the header announces (R89, R93). -/
theorem frameResponse_incomplete (o : Nat) (frameMax : Length) (xs : List Byte)
    (h : (frameResponse o frameMax xs).status = Status.incomplete.code) :
    (xs.length < 7 ∧ (frameResponse o frameMax xs).need = 7) ∨
      ∃ (tag : Byte) (t : FrameType) (ch : Channel) (len : Length) (body : List Byte),
        xs = [tag] ++ bytes16 ch ++ bytes32 len ++ body ∧ kind tag = some t ∧ len.toNat ≤ frameMax.toNat ∧
          (frameResponse o frameMax xs).need.toNat = 7 + len.toNat + 1 := by
  rcases short_or_header xs with hs | ⟨tag, ch, len, body, rfl⟩
  · exact .inl ⟨hs, by rw [frameResponse_of_short _ _ _ hs]; rfl⟩
  right
  rw [frameResponse_header] at h ⊢
  cases hk : kind tag with
  | none => rw [hk] at h; simp at h
  | some t =>
    rw [hk] at h
    obtain ⟨hmax, hshort⟩ := (bodyResponse_incomplete_iff _ _ _ _ _ _).1 h
    refine ⟨tag, t, ch, len, body, rfl, hk, hmax, ?_⟩
    rw [Option.elim_some, bodyResponse_of_short _ _ _ _ _ _ hmax hshort, Response.error_need, needOf_toNat]

/-- The need of an INCOMPLETE is at least 7. -/
theorem seven_le_need (o : Nat) (frameMax : Length) (xs : List Byte)
    (h : (frameResponse o frameMax xs).status = Status.incomplete.code) : 7 ≤ (frameResponse o frameMax xs).need.toNat := by
  rcases frameResponse_incomplete o frameMax xs h with ⟨_, hn⟩ | ⟨_, _, _, _, _, _, _, _, hn⟩
  · rw [hn]; rfl
  · omega

/-- An INCOMPLETE repeats on an extended buffer until its need is met, and asks for no less (R102 (b)). -/
theorem frameResponse_append_incomplete (o : Nat) (frameMax : Length) (xs ext : List Byte)
    (h : (frameResponse o frameMax xs).status = Status.incomplete.code) :
    ((xs ++ ext).length < (frameResponse o frameMax xs).need.toNat →
        (frameResponse o frameMax (xs ++ ext)).status = Status.incomplete.code) ∧
      ((frameResponse o frameMax (xs ++ ext)).status = Status.incomplete.code →
        (frameResponse o frameMax xs).need.toNat ≤ (frameResponse o frameMax (xs ++ ext)).need.toNat) := by
  rcases frameResponse_incomplete o frameMax xs h with ⟨_, hn⟩ | ⟨tag, t, ch, len, body, rfl, hk, hmax, hn⟩
  · rw [hn]
    exact ⟨fun hlt => by rw [frameResponse_of_short _ _ _ hlt]; rfl, seven_le_need o frameMax (xs ++ ext)⟩
  · rw [hn, List.append_assoc, length_header_append, frameResponse_header, hk, Option.elim_some]
    refine ⟨fun hlt => (bodyResponse_incomplete_iff _ _ _ _ _ _).2 ⟨hmax, by omega⟩, fun hinc => ?_⟩
    obtain ⟨_, hshort⟩ := (bodyResponse_incomplete_iff _ _ _ _ _ _).1 hinc
    rw [bodyResponse_of_short _ _ _ _ _ _ hmax hshort, Response.error_need, needOf_toNat]

/-- Settles O27: an offset beyond the buffer answers OFFSET_OUT_OF_RANGE, which both parts leave out; else the bytes from the offset on are extended. -/
theorem responseIsStableUnderExtension : Obligations.ResponseIsStableUnderExtension := by
  intro l l' ext r r' hb hb' ho hm hbytes hr hr'
  obtain ⟨_, rfl⟩ := (completeResponse_eq_some l r).1 hr
  obtain ⟨_, rfl⟩ := (completeResponse_eq_some l' r').1 hr'
  have hlen : l'.bufLen = l.bufLen + ext.length := by rw [← l'.length_bytes, hbytes, List.length_append, l.length_bytes]
  by_cases hlt : l.bufLen < l.reqOffset
  · rw [laneResponse_of_bufLen_lt l hlt]
    simp
  have hxs : l'.bytes.drop l'.reqOffset = l.bytes.drop l.reqOffset ++ ext := by
    rw [hbytes, ho, List.drop_append_of_le_length (by rw [l.length_bytes]; omega)]
  have hav : l'.bufLen - l'.reqOffset = (l.bytes.drop l.reqOffset ++ ext).length := by
    rw [← hxs, List.length_drop, l'.length_bytes]
  rw [laneResponse_eq_frameResponse l (by omega), laneResponse_eq_frameResponse l' (by omega), hav, hxs, hm, ho]
  exact ⟨fun hinc _ => frameResponse_append _ _ _ ext hinc, frameResponse_append_incomplete _ _ _ ext⟩

/-! ## The reference encoder -/

/-- What a DECODE answers at the bytes of a frame whose length field is its payload's length, whatever the tag and the end byte are. -/
theorem frameResponse_frameBytes (o : Nat) (frameMax : Length) (tag : Byte) (ch : Channel) (payload post : List Byte) (e : Byte) (len : Length)
    (hlen : len.toNat = payload.length) :
    frameResponse o frameMax (frameBytes tag ch len payload e ++ post) =
      (kind tag).elim (Response.error .unknownType tag 0) (fun t =>
        if frameMax.toNat < payload.length then Response.error .frameTooLarge 0x00 0
        else if e ≠ frameEnd then Response.error .invalidEnd e 0 else Response.success o t ch len payload) := by
  have hbytes : frameBytes tag ch len payload e ++ post = [tag] ++ bytes16 ch ++ bytes32 len ++ (payload ++ e :: post) := by
    simp only [frameBytes, List.append_assoc, List.cons_append, List.nil_append]
  rw [hbytes, frameResponse_header]
  cases kind tag with
  | none => rfl
  | some t =>
    rw [Option.elim_some, Option.elim_some]
    by_cases hmax : frameMax.toNat < payload.length
    · rw [if_pos hmax, bodyResponse_of_frameMax_lt _ _ _ _ _ _ (hlen ▸ hmax)]
    · rw [if_neg hmax, bodyResponse_payload _ _ _ _ _ _ _ _ hlen (Nat.not_lt.1 hmax)]

/-- What `EncodeRef` accepts: a tag of a known type and a payload whose length the length field holds; its bytes are the frame's (R117, R118). -/
theorem encodeRef_spec (tag : Byte) (ch : Channel) (payload b : List Byte) (h : encodeRef tag ch payload = some b) :
    ∃ (t : FrameType) (len : Length), kind tag = some t ∧ len.toNat = payload.length ∧ b = frameBytes tag ch len payload frameEnd := by
  obtain ⟨⟨hk, hlen⟩, rfl⟩ := (encodeRef_eq_some_iff tag ch payload b).1 h
  obtain ⟨t, ht⟩ := Option.isSome_iff_exists.1 hk
  exact ⟨t, _, ht, (BitVec.toNat_ofNat _ _).trans (Nat.mod_eq_of_lt (by omega)), rfl⟩

/-- Settles O28: the response at the encoder's bytes is decided by FRAME_MAX alone, since the tag is known and the end byte is 0xCE. -/
theorem decodeOfEncodeRefGivesFrame : Obligations.DecodeOfEncodeRefGivesFrame := by
  intro l tag ch payload b pre post hb henc hbytes ho
  obtain ⟨t, len, hk, hlen, rfl⟩ := encodeRef_spec tag ch payload b henc
  rw [List.append_assoc] at hbytes
  have hresp : laneResponse l =
      if l.params.frameMax.toNat < payload.length then Response.error .frameTooLarge 0x00 0
      else Response.success pre.length t ch len payload := by
    rw [laneResponse_of_bytes_append l _ _ hbytes ho, frameResponse_frameBytes _ _ _ _ _ _ _ _ hlen, hk, Option.elim_some,
      if_neg (not_not.2 rfl)]
  rw [completeResponse_of_busy l hb, hresp]
  constructor
  · intro hmax
    rw [if_neg (Nat.not_lt.2 hmax)]
    exact ⟨_, rfl, rfl, (eq_tag_of_kind tag t hk).symm, rfl, hlen, rfl, by rw [length_frameBytes, ← hlen]; rfl, rfl⟩
  · intro hmax
    rw [if_pos hmax]

/-- Status OK means that the bytes from the request offset on begin with the frame that the response presents (R100). -/
theorem frameResponse_ok (o : Nat) (frameMax : Length) (xs : List Byte)
    (h : (frameResponse o frameMax xs).status = Status.ok.code) :
    ∃ (t : FrameType) (ch : Channel) (len : Length) (payload post : List Byte), payload.length = len.toNat ∧
      xs = frameBytes t.tag ch len payload frameEnd ++ post ∧ frameResponse o frameMax xs = Response.success o t ch len payload := by
  rcases short_or_header xs with hs | ⟨tag, ch, len, body, rfl⟩
  · rw [frameResponse_of_short _ _ _ hs] at h
    simp at h
  rw [frameResponse_header] at h ⊢
  cases hk : kind tag with
  | none => rw [hk] at h; simp at h
  | some t =>
    rw [hk] at h
    obtain ⟨hfit, hend, hresp⟩ := bodyResponse_ok o frameMax t ch len body h
    have hbody : body = body.take len.toNat ++ frameEnd :: body.drop (len.toNat + 1) := by
      rw [← hend, List.getD_eq_getElem _ _ hfit, ← List.drop_eq_getElem_cons, List.take_append_drop]
    refine ⟨t, ch, len, body.take len.toNat, body.drop (len.toNat + 1), by rw [List.length_take]; omega, ?_, hresp⟩
    rw [← eq_tag_of_kind tag t hk]
    conv_lhs => rw [hbody]
    simp only [frameBytes, List.append_assoc, List.cons_append, List.nil_append]

/-- `Kind` takes the tag of every type (R105). -/
theorem kind_tag (t : FrameType) : kind t.tag = some t := by
  cases t <;> rfl

/-- Settles O29: the bytes from the request offset on begin with the frame, and the encoder gives that frame for what the response presents. -/
theorem decodedFrameReencodesToItsBytes : Obligations.DecodedFrameReencodesToItsBytes := by
  intro l r hr hok
  obtain ⟨_, rfl⟩ := (completeResponse_eq_some l r).1 hr
  by_cases hlt : l.bufLen < l.reqOffset
  · rw [laneResponse_of_bufLen_lt l hlt] at hok
    simp at hok
  rw [laneResponse_eq_frameResponse l (Nat.not_lt.1 hlt)] at hok ⊢
  obtain ⟨t, ch, len, payload, post, hlen, hxs, hresp⟩ := frameResponse_ok _ _ _ hok
  have hfield : BitVec.ofNat 32 payload.length = len := by rw [hlen, BitVec.ofNat_toNat, BitVec.setWidth_eq]
  have hsize : frameLength len = (frameBytes t.tag ch len payload frameEnd).length := by rw [length_frameBytes, hlen]; rfl
  rw [hresp, encodeRef_eq_some_iff]
  refine ⟨⟨by rw [Response.success_type, kind_tag]; rfl, ?_⟩, ?_⟩
  · have := len.isLt
    rw [Response.success_payload, hlen]
    omega
  · rw [Response.success_payload, hfield, Response.success_type, Response.success_channel, Response.success_consumed, hxs, hsize,
      List.take_left]

/-- Cut after `n` bytes, a frame is too short for its header, or its header with a part of what follows. -/
theorem take_frameBytes (tag : Byte) (ch : Channel) (len : Length) (payload : List Byte) (e : Byte) (n : Nat) (h : 7 ≤ n) :
    (frameBytes tag ch len payload e).take n = [tag] ++ bytes16 ch ++ bytes32 len ++ (payload ++ [e]).take (n - 7) := by
  have hhead : ([tag] ++ bytes16 ch ++ bytes32 len).length = 7 := rfl
  rw [frameBytes, List.append_assoc, List.take_append, hhead, List.take_of_length_le (by rw [hhead]; exact h)]

/-- Settles O30: a cut frame stops at check 1 or check 4, a changed end byte at check 5, and a changed tag at check 2. -/
theorem damagedFrameResponses : Obligations.DamagedFrameResponses := by
  intro l tag ch payload b pre post hb henc hmax ho
  obtain ⟨t, len, hk, hlen, rfl⟩ := encodeRef_spec tag ch payload b henc
  rw [completeResponse_of_busy l hb]
  refine ⟨fun n hn hbytes => ?_, fun x hx hbytes => ?_, fun y hy hbytes => ?_⟩
  · rw [laneResponse_of_bytes_append l _ _ hbytes ho]
    rw [length_frameBytes] at hn
    by_cases h7 : n < 7
    · rw [frameResponse_of_short _ _ _ (by rw [List.length_take]; omega), if_pos h7]
      exact ⟨_, rfl, rfl, rfl⟩
    · rw [take_frameBytes _ _ _ _ _ _ (Nat.not_lt.1 h7), frameResponse_header, hk, Option.elim_some,
        bodyResponse_of_short _ _ _ _ _ _ (hlen ▸ hmax) (by rw [List.length_take]; omega), if_neg h7, length_frameBytes]
      exact ⟨_, rfl, rfl, by rw [Response.error_need, needOf_toNat, hlen]⟩
  · have hrepl : frameEndReplaced (frameBytes tag ch len payload frameEnd) x = frameBytes tag ch len payload x := by
      rw [frameEndReplaced, frameBytes, List.dropLast_concat]
      rfl
    rw [hrepl, List.append_assoc] at hbytes
    rw [laneResponse_of_bytes_append l _ _ hbytes ho, frameResponse_frameBytes _ _ _ _ _ _ _ _ hlen, hk, Option.elim_some,
      if_neg (Nat.not_lt.2 hmax), if_pos (show x ≠ frameEnd from hx)]
  · have hrepl : y :: (frameBytes tag ch len payload frameEnd).tail = frameBytes y ch len payload frameEnd := rfl
    rw [hrepl, List.append_assoc] at hbytes
    rw [laneResponse_of_bytes_append l _ _ hbytes ho, frameResponse_frameBytes _ _ _ _ _ _ _ _ hlen, hy, Option.elim_none]

/-! ## The response by cases -/

/-- The error responses of DECODE: status, diagnostic byte and need (R87 to R94). -/
inductive Diagnostic (frameMax : Length) : Status → Byte → BitVec 33 → Prop
  | offsetOutOfRange : Diagnostic frameMax .offsetOutOfRange 0x00 0
  | shortHeader : Diagnostic frameMax .incomplete 0x00 7
  | unknownType (tag : Byte) (hk : kind tag = none) : Diagnostic frameMax .unknownType tag 0
  | frameTooLarge : Diagnostic frameMax .frameTooLarge 0x00 0
  | shortFrame (len : Length) (hmax : len.toNat ≤ frameMax.toNat) : Diagnostic frameMax .incomplete 0x00 (needOf len)
  | invalidEnd (e : Byte) (he : e ≠ frameEnd) : Diagnostic frameMax .invalidEnd e 0

/-- A known frame that passes every check presents a payload within FRAME_MAX and within the buffer; else a check answers (R92 to R100). -/
theorem knownResponse_cases (l : Lane) (t : FrameType) (ch : Channel) (len : Length) (h7 : l.reqOffset + 7 ≤ l.bufLen) :
    (∃ st x k, Diagnostic l.params.frameMax st x k ∧ knownResponse l t ch len = Response.error st x k) ∨
      ∃ payload, len.toNat ≤ l.params.frameMax.toNat ∧ l.reqOffset + 7 + len.toNat + 1 ≤ l.bufLen ∧ payload.length = len.toNat ∧
        knownResponse l t ch len = Response.success l.reqOffset t ch len payload := by
  by_cases hmax : l.params.frameMax.toNat < len.toNat
  · exact .inl ⟨_, _, _, .frameTooLarge, knownResponse_of_frameMax_lt l t ch len hmax⟩
  have hmax := Nat.not_lt.1 hmax
  by_cases hav : l.avail - 7 < len.toNat + 1
  · exact .inl ⟨_, _, _, .shortFrame len hmax, knownResponse_of_avail_lt l t ch len hmax hav⟩
  have hfit : l.reqOffset + 7 + len.toNat + 1 ≤ l.bufLen := by simp only [Lane.avail] at hav; omega
  rw [knownResponse_of_fits l t ch len hmax hfit]
  split_ifs with hend
  · exact .inl ⟨_, _, _, .invalidEnd _ hend, rfl⟩
  · exact .inr ⟨_, hmax, hfit, Memory.length_slice _ _ _, rfl⟩

/-- What the response of a Complete can be: an error with its diagnostic, or a frame within FRAME_MAX and within the buffer (R86). -/
theorem laneResponse_cases (l : Lane) :
    (∃ st x k, Diagnostic l.params.frameMax st x k ∧ laneResponse l = Response.error st x k) ∨
      ∃ t ch len payload, len.toNat ≤ l.params.frameMax.toNat ∧ l.reqOffset + 7 + len.toNat + 1 ≤ l.bufLen ∧
        payload.length = len.toNat ∧ laneResponse l = Response.success l.reqOffset t ch len payload := by
  by_cases hlt : l.bufLen < l.reqOffset
  · exact .inl ⟨_, _, _, .offsetOutOfRange, laneResponse_of_bufLen_lt l hlt⟩
  by_cases hav : l.avail < 7
  · exact .inl ⟨_, _, _, .shortHeader, laneResponse_of_avail_lt l (Nat.not_lt.1 hlt) hav⟩
  have h7 : l.reqOffset + 7 ≤ l.bufLen := by simp only [Lane.avail] at hav; omega
  rw [laneResponse_eq_decodeFn, decodeFn_of_header l h7]
  cases hk : kind (Memory.read l.buf l.reqOffset) with
  | none => exact .inl ⟨_, _, _, .unknownType _ hk, rfl⟩
  | some t => exact (knownResponse_cases l t _ _ h7).imp_right fun ⟨payload, h⟩ => ⟨t, _, _, payload, h⟩

/-- Settles O34: the need is that of a header, or of a frame whose payload is within FRAME_MAX. -/
theorem incompleteNeedFitsCapacity : Obligations.IncompleteNeedFitsCapacity := by
  intro l r hcap hr hinc
  obtain ⟨_, rfl⟩ := (completeResponse_eq_some l r).1 hr
  rcases laneResponse_cases l with ⟨st, x, k, hd, hresp⟩ | ⟨t, ch, len, payload, _, _, _, hresp⟩
  · rw [hresp] at hinc ⊢
    rw [Response.error_need]
    cases hd with
    | shortHeader => exact le_trans (by decide) ((Nat.le_add_left 8 _).trans hcap)
    | shortFrame len hmax => rw [needOf_toNat]; omega
    | _ => simp at hinc
  · rw [hresp] at hinc
    simp at hinc

/-- Settles O35: an error has no payload, and the payload of a frame lies within FRAME_MAX and, with 8 bytes around it, within the buffer. -/
theorem payloadFitsItsStore : Obligations.PayloadFitsItsStore := by
  intro l r hcap hr
  obtain ⟨_, rfl⟩ := (completeResponse_eq_some l r).1 hr
  rcases laneResponse_cases l with ⟨st, x, k, _, hresp⟩ | ⟨t, ch, len, payload, hmax, hfit, hlen, hresp⟩
  · rw [hresp, Response.error_payload]
    exact Nat.zero_le _
  · rw [hresp, Response.success_payload]
    omega

end Sys2Proof.Machine
end

section
/-!
PROOFS. The legal machine (R22, R28, R43, R46): each change that a step can make to an instance keeps it legal, and so does each change of a buffer. What
follows of a legal instance: RESP_DISPATCH is one-hot (R114), and no reserved code is reached (R22, R159).
-/

namespace Sys2Proof.Machine

/-! ## The response of a Complete is legal -/

/-- An error response with its diagnostic reports an error (R142 to R147). -/
theorem Diagnostic.reports {frameMax : Length} {st : Status} {x : Byte} {k : BitVec 33} (h : Diagnostic frameMax st x k) :
    (Response.error st x k).Reports := by
  refine ⟨⟨rfl, rfl, rfl, rfl, rfl, rfl, rfl⟩, ?_⟩
  cases h with
  | offsetOutOfRange => exact .inr (.inr (.inr (.inr ⟨rfl, rfl, rfl⟩)))
  | shortHeader => exact .inl ⟨rfl, rfl, .inl rfl⟩
  | unknownType tag hk => exact .inr (.inl ⟨rfl, hk, rfl⟩)
  | frameTooLarge => exact .inr (.inr (.inr (.inl ⟨rfl, rfl, rfl⟩)))
  | shortFrame len hmax =>
    have hlt := len.isLt
    refine .inl ⟨rfl, rfl, .inr ?_⟩
    rw [Response.error_need, needOf_toNat]
    omega
  | invalidEnd e he => exact .inr (.inr (.inl ⟨rfl, he, rfl⟩))

/-- A success response whose payload has the length of its field presents the frame (R100). -/
theorem Response.success_presentsAt (o : Nat) (t : FrameType) (ch : Channel) (len : Length) (payload : List Byte)
    (h : payload.length = len.toNat) : (Response.success o t ch len payload).PresentsAt o :=
  ⟨rfl, ⟨t, rfl, rfl⟩, h, rfl, rfl, rfl, rfl⟩

/-! ## A legal instance stays legal -/

/-- Whether an instance is legal rests on its parameters and registers alone. -/
theorem Decoder.Inv.of_sameRegs {d d' : Decoder} (h : d.Inv) (hs : d.sameRegs d') : d'.Inv := by
  obtain ⟨hp, hc, ho, hv, hr, hl, _⟩ := hs
  constructor
  · rw [hc]; exact h.ctrl_legal
  · rw [hc, hv]; exact h.valid_iff_done
  · rw [hv, hr]; exact h.zero_unless_valid
  · rw [hv, hr, ho]; exact h.response_shape
  · rw [hl, hp]; exact h.len_fits
  · rw [ho, hp]; exact h.offset_fits
  · rw [hr, hp]; exact h.start_fits
  · rw [hr, hp]; exact h.consumed_fits

/-- Without a response, an instance in a state other than DONE is legal where BUF_LEN and REQ_OFFSET fit (R28, R43). -/
theorem Decoder.inv_of_no_response {d : Decoder} (hc : d.ctrl = ctrlIdle ∨ d.ctrl = ctrlBusy) (hv : d.respValid = 0)
    (hr : d.resp = Response.zero) (hl : d.bufLen ≤ d.params.bufCapacity) (ho : d.reqOffset < 2 ^ d.params.addrWidth) : d.Inv := by
  have hne : d.respValid ≠ 1#1 := by rw [hv]; decide
  constructor
  · rcases hc with hc | hc <;> rw [hc] <;> decide
  · rcases hc with hc | hc <;> rw [hv, hc] <;> decide
  · exact fun _ => hr
  · exact fun h => absurd h hne
  · exact hl
  · exact ho
  · rw [hr]; exact Nat.two_pow_pos _
  · rw [hr]; exact Nat.two_pow_pos _

/-- An instance after reset is legal (R42). -/
theorem Decoder.inv_initial (p : Params) (b : Nat) : (Decoder.initial p b).Inv :=
  Decoder.inv_of_no_response (.inl rfl) rfl rfl (Nat.zero_le _) (Nat.two_pow_pos _)

/-- Reset gives a legal instance (R160). -/
theorem Decoder.inv_resetRegs (d : Decoder) : d.resetRegs.Inv :=
  Decoder.inv_of_no_response (.inl rfl) rfl rfl (Nat.zero_le _) (Nat.two_pow_pos _)

/-- Accept of an offset of ADDR_WIDTH bits keeps an instance legal (R84). -/
theorem Decoder.Inv.accept {d : Decoder} (h : d.Inv) (o : Nat) (r : Option Nat) (ho : o < 2 ^ d.params.addrWidth) :
    Decoder.Inv { d.accept o with requester := r } :=
  Decoder.inv_of_no_response (.inr rfl) rfl rfl h.len_fits ho

/-- A BUF_LEN within BUF_CAPACITY keeps an instance legal (R46). -/
theorem Decoder.Inv.resize {d : Decoder} (h : d.Inv) (n : Nat) (hn : n ≤ d.params.bufCapacity) : Decoder.Inv { d with bufLen := n } :=
  { ctrl_legal := h.ctrl_legal, valid_iff_done := h.valid_iff_done, zero_unless_valid := h.zero_unless_valid,
    response_shape := h.response_shape, len_fits := hn, offset_fits := h.offset_fits, start_fits := h.start_fits,
    consumed_fits := h.consumed_fits }

/-- Complete keeps an instance legal: the frame it presents lies within the buffer, so that its registers fit (R34, R35, R85). -/
theorem Lane.inv_complete (l : Lane) (h : l.toDecoder.Inv) : (l.toDecoder.complete (laneResponse l)).Inv := by
  have hshape : (laneResponse l).PresentsAt l.reqOffset ∨ (laneResponse l).Reports := by
    rcases laneResponse_cases l with ⟨st, x, k, hd, hresp⟩ | ⟨t, ch, len, payload, _, _, hlen, hresp⟩
    · exact .inr (hresp ▸ hd.reports)
    · exact .inl (hresp ▸ Response.success_presentsAt _ _ _ _ _ hlen)
  have hfits : (laneResponse l).payloadStart ≤ l.bufLen ∧ (laneResponse l).consumed ≤ l.bufLen := by
    rcases laneResponse_cases l with ⟨st, x, k, _, hresp⟩ | ⟨t, ch, len, payload, _, hfit, _, hresp⟩
    · rw [hresp]
      exact ⟨Nat.zero_le _, Nat.zero_le _⟩
    · rw [hresp, Response.success_payloadStart, Response.success_consumed, frameLength]
      omega
  have hwidth : ∀ n ≤ l.bufLen, n < 2 ^ l.params.addrWidth := fun n hn => Params.lt_addrWidth l.params n (hn.trans h.len_fits)
  exact
    { ctrl_legal := (by decide : ctrlDone ≠ ctrlReserved), valid_iff_done := ⟨fun _ => rfl, fun _ => rfl⟩,
      zero_unless_valid := fun hv => absurd hv (by decide : (1 : BitVec 1) ≠ 0#1), response_shape := fun _ => hshape,
      len_fits := h.len_fits, offset_fits := h.offset_fits, start_fits := hwidth _ hfits.1, consumed_fits := hwidth _ hfits.2 }

/-- The registers stay when a host has waited. -/
theorem Decoder.sameRegs_waitedFor (d : Decoder) (no : Nat) : d.sameRegs (d.waitedFor no) := by
  simp [Decoder.sameRegs]

/-- Whatever a step does to a legal instance, it stays legal. -/
theorem DecStep.inv {s : State} {j : Nat} {d d' : Decoder} (h : DecStep s j d d') (hm : d ∈ s.decs) (hi : d.Inv) : d'.Inv := by
  cases h with
  | same => exact hi
  | complete hn hb => exact Lane.inv_complete { d with buf := s.buffer d.bufId } hi
  | reset hn => exact d.inv_resetRegs
  | accept no h o ha hb hr ho => exact hi.accept _ _ ho
  | waited no h op ha => exact hi.of_sameRegs (d.sameRegs_waitedFor no)
  | release no h ha => exact hi.of_sameRegs ⟨rfl, rfl, rfl, rfl, rfl, rfl, rfl⟩
  | buffer no h k n op d₀ ha hop h0 hs hb hn => exact hi.resize n (hn d hm rfl)

/-! ## A legal machine stays legal -/

/-- BUF_LEN after a step is within every capacity that it was within, or within that of all instances of the buffer. -/
theorem DecStep.bufLen_le {s : State} {j : Nat} {d d' : Decoder} (h : DecStep s j d d') (c : Decoder) (hc : c ∈ s.decs)
    (hs : c.bufId = d.bufId) (hle : d.bufLen ≤ c.params.bufCapacity) : d'.bufLen ≤ c.params.bufCapacity := by
  cases h with
  | reset hn => exact Nat.zero_le _
  | waited no h op ha => rwa [Decoder.waitedFor_bufLen]
  | buffer no h k n op d₀ ha hop h0 hs' hb hn => exact hn c hc hs
  | _ => exact hle

/-- Each instance after a step is one before it, after what the step does to it. -/
theorem step_dec_of_mem {s t : State} {d' : Decoder} (e : step s = .next t) (h : d' ∈ t.decs) :
    ∃ j d, s.decs[j]? = some d ∧ d ∈ s.decs ∧ DecStep s j d d' := by
  obtain ⟨j, hj⟩ := List.mem_iff_getElem?.1 h
  have hlt : j < s.decs.length := (step_shape s t e).1 ▸ (List.getElem?_eq_some_iff.1 hj).1
  have hd := List.getElem?_eq_getElem hlt
  exact ⟨j, _, hd, List.getElem_mem hlt, step_dec s t j _ _ e hd hj⟩

/-- The contents of the buffers after one of them is set. -/
theorem State.buffer_of_set (s t : State) (k : Nat) (m : Memory) (h : t.buffers = s.buffers.set k m) (hk : k < s.buffers.length) (b : Nat) :
    t.buffer b = if b = k then m else s.buffer b := by
  simp only [State.buffer, h, List.getD_eq_getElem?_getD]
  by_cases hb : b = k
  · subst hb
    simp [hk]
  · rw [List.getElem?_set_ne (Ne.symm hb), if_neg hb]

/-- A step keeps every stored buffer canonical (log entry 7). -/
theorem step_buffers_wf {s t : State} (hs : s.Inv) (e : step s = .next t) : ∀ m ∈ t.buffers, Memory.wf m = true := by
  rcases step_buffers s t e with h | ⟨_, _, _, _, d, m, _, _, _, _, hid, h, hwf, _⟩
  · rw [h]
    exact hs.buffers_wf
  · have hold : Memory.wf (s.buffer d.bufId) = true := by
      rw [State.buffer, List.getD_eq_getElem _ _ hid]
      exact hs.buffers_wf _ (List.getElem_mem hid)
    intro m' hm'
    rw [h] at hm'
    rcases List.mem_or_eq_of_mem_set hm' with hm' | rfl
    · exact hs.buffers_wf m' hm'
    · exact hwf hold

/-- A step stores nothing beyond the BUF_CAPACITY of an instance that is given the buffer. -/
theorem step_buffer_fits {s t : State} (hs : s.Inv) (e : step s = .next t) (c : Decoder) (hc : c ∈ s.decs) :
    ∀ x ∈ t.buffer c.bufId, x.1 < c.params.bufCapacity := by
  rcases step_buffers s t e with h | ⟨_, _, _, _, d, m, _, _, _, _, hid, h, _, hfit⟩
  · rw [State.buffer, h]
    exact hs.buffer_fits c hc
  · rw [State.buffer_of_set s t _ m h hid]
    split_ifs with hb
    · intro x hx
      rcases hfit x hx with hlt | hold
      · exact hlt c hc hb
      · exact hs.buffer_fits c hc x (hb ▸ hold)
    · exact hs.buffer_fits c hc

/-- Settles O41: every instance takes a `DecStep`, which keeps it legal, and at most one buffer is changed, within the capacities. -/
theorem stepKeepsLegalMachine : Obligations.StepKeepsLegalMachine := by
  intro s t hs e
  constructor
  · intro d' hd'
    obtain ⟨j, d, _, hm, hstep⟩ := step_dec_of_mem e hd'
    exact hstep.inv hm (hs.decs_legal d hm)
  · intro d' hd' c' hc' hid
    obtain ⟨_, d, _, hm, hstep⟩ := step_dec_of_mem e hd'
    obtain ⟨_, c, _, hcm, hcstep⟩ := step_dec_of_mem e hc'
    rw [hstep.keeps.2, hcstep.keeps.2] at hid
    rw [hcstep.keeps.1]
    exact hstep.bufLen_le c hcm hid (hs.len_fits d hm c hcm hid)
  · exact step_buffers_wf hs e
  · intro d' hd'
    obtain ⟨_, d, _, hm, hstep⟩ := step_dec_of_mem e hd'
    rw [hstep.keeps.2, (step_shape s t e).2.2.2]
    exact hs.buffer_exists d hm
  · intro d' hd'
    obtain ⟨_, d, _, hm, hstep⟩ := step_dec_of_mem e hd'
    rw [hstep.keeps.2, hstep.keeps.1]
    exact step_buffer_fits hs e d hm

/-- Settles O42: the one instance is an initial one, and its buffer has no bytes. -/
theorem resetMachineIsLegal : Obligations.ResetMachineIsLegal := by
  have hdecs : State.reset.decs = [Decoder.initial Params.default 0] := rfl
  constructor
  · rw [hdecs, List.forall_mem_singleton]
    exact Decoder.inv_initial _ _
  · simp only [hdecs, List.forall_mem_singleton]
    exact fun _ => Nat.zero_le _
  · exact State.reset_buffers_wf
  · rw [hdecs, List.forall_mem_singleton]
    exact Nat.zero_lt_one
  · rw [hdecs, List.forall_mem_singleton]
    exact fun c hc => absurd hc (List.not_mem_nil)

/-- Settles O40: the registers of the one instance and the host's cursor are read off the definition. -/
theorem resetStateRegisters : Obligations.ResetStateRegisters := by
  simp [Obligations.ResetStateRegisters, State.reset, State.decs, Decoder.initial, Params.default, Response.zero, ctrlIdle,
    HostAgent.initial]

/-! ## What a legal instance holds -/

/-- A legal instance holds no response, a frame or an error. -/
theorem Decoder.Inv.resp_cases {d : Decoder} (h : d.Inv) :
    (d.respValid = 0#1 ∧ d.resp = Response.zero) ∨ d.resp.PresentsAt d.reqOffset ∨ d.resp.Reports := by
  rcases (by decide : ∀ v : BitVec 1, v = 0#1 ∨ v = 1#1) d.respValid with hv | hv
  · exact .inl ⟨hv, h.zero_unless_valid hv⟩
  · exact .inr (h.response_shape hv)

/-- An error response reports one of the five error codes (R140). -/
theorem Response.Reports.status {r : Response} (h : r.Reports) : ∃ st : Status, st ≠ .ok ∧ r.status = st.code := by
  rcases h.2 with ⟨h, _⟩ | ⟨h, _⟩ | ⟨h, _⟩ | ⟨h, _⟩ | ⟨h, _⟩
  · exact ⟨.incomplete, by decide, h⟩
  · exact ⟨.unknownType, by decide, h⟩
  · exact ⟨.invalidEnd, by decide, h⟩
  · exact ⟨.frameTooLarge, by decide, h⟩
  · exact ⟨.offsetOutOfRange, by decide, h⟩

/-- No status has a reserved code (R140, R159). -/
theorem statusReserved_code (st : Status) : statusReserved st.code = false := by
  cases st <;> rfl

/-- A legal instance holds no reserved status (R159). -/
theorem Decoder.Inv.status_not_reserved {d : Decoder} (h : d.Inv) : statusReserved d.resp.status = false := by
  rcases h.resp_cases with ⟨_, hz⟩ | hp | hr
  · rw [hz]
    exact statusReserved_code .ok
  · rw [hp.1]
    exact statusReserved_code .ok
  · obtain ⟨st, _, hst⟩ := hr.status
    rw [hst]
    exact statusReserved_code st

/-- The one-hot codes (R105). -/
theorem FrameType.onehot_cases (t : FrameType) : t.onehot = 1 ∨ t.onehot = 2 ∨ t.onehot = 4 ∨ t.onehot = 8 := by
  cases t <;> decide

/-- Settles O44: a frame is presented with the one-hot code of its type, and without a frame RESP_DISPATCH is 0. -/
theorem dispatchIsOneHot : Obligations.DispatchIsOneHot := by
  intro d h
  rcases h.resp_cases with ⟨hv, hz⟩ | ⟨_, ⟨t, _, ht⟩, _⟩ | hr
  · refine ⟨.inl (by rw [hz]; rfl), fun hv' => ?_⟩
    rw [hv] at hv'
    contradiction
  · rw [ht]
    exact ⟨.inr t.onehot_cases, fun _ _ => by cases t <;> decide⟩
  · obtain ⟨st, hne, hst⟩ := hr.status
    exact ⟨.inl hr.1.2.1, fun _ hok => absurd (Status.code_inj.1 (hst.symm.trans hok)) hne⟩

/-! ## Faults -/

/-- The turn is an instance's own or a host's action on one, and the instance, in focus in `s'`, is in the reserved state. -/
def State.reservedReady (s s' : State) : Prop :=
  (s.nextTurn = .decoder s'.focused ∨ ∃ (no : Nat) (h : HostAgent) (op : Op), s.hostAt no h (.on s'.focused op)) ∧
    s.usedTurn.focus s'.focused = some s' ∧ s'.dec.ctrl = ctrlReserved

/-- Such a turn faults (R22). -/
theorem step_of_reservedReady (s s' : State) (h : s.reservedReady s') : step s = .fault .reservedCtrlState := by
  obtain ⟨hn | ⟨no, h, op, ha⟩, hf, hr⟩ := h
  · simp only [step, hn, onInstance, hf]
    exact decoderTurn_of_reserved s' hr
  · rw [step_of_hostAt s no h _ ha]
    simp only [hostLine, hostOn, hf, hr, if_true]

/-- A host's turn, by what it does: it has no line to take, or takes the action of its current line. -/
theorem step_of_host_cases (s : State) (no : Nat) (hn : s.nextTurn = .host no) :
    step s = .refused .noSuchHost ∨ step s = .next s.usedTurn ∨ ∃ h a, s.hostAt no h a := by
  cases hh : s.hosts[no]? with
  | none => exact .inl (by simp only [step, hn, hostTurn, State.usedTurn_hosts, hh])
  | some h =>
    by_cases hrun : h.run = .running
    · cases ha : h.action with
      | none => exact .inr (.inl (by simp only [step, hn, hostTurn, State.usedTurn_hosts, hh, hrun, if_true, ha]))
      | some a => exact .inr (.inr ⟨h, a, hn, hh, hrun, ha⟩)
    · exact .inr (.inl (by simp only [step, hn, hostTurn, State.usedTurn_hosts, hh, hrun, if_false]))

/-- A host's action on an instance: there is no such instance, it is in the reserved state, or the action is taken. -/
theorem hostAt_on_cases (s : State) (no : Nat) (h : HostAgent) (k : Nat) (op : Op) (ha : s.hostAt no h (.on k op)) :
    (s.usedTurn.focus k = none ∧ step s = .refused .noSuchInstance) ∨
      ∃ s' : State, s'.focused = k ∧ (s.reservedReady s' ∨ s.hostReady s' no h op) := by
  cases hf : s.usedTurn.focus k with
  | none =>
    refine .inl ⟨rfl, ?_⟩
    rw [step_of_hostAt s no h _ ha]
    simp only [hostLine, hostOn, hf]
  | some s' =>
    obtain rfl := (State.focus_spec _ _ _ hf).2.2.1
    by_cases hr : s'.dec.ctrl = ctrlReserved
    · exact .inr ⟨s', rfl, .inl ⟨.inr ⟨no, h, op, ha⟩, hf, hr⟩⟩
    · exact .inr ⟨s', rfl, .inr ⟨ha, hf, hr⟩⟩

/-- The faults of a step, said once: a turn at an instance in the reserved state, and an action that reads a reserved status. -/
theorem step_fault (s : State) (r : Fault) (e : step s = .fault r) :
    (r = .reservedCtrlState ∧ ∃ s', s.reservedReady s') ∨
      (r = .reservedStatus ∧ ∃ s' no h op, s.hostReady s' no h op ∧ statusReserved s'.dec.resp.status = true) := by
  cases hn : s.nextTurn with
  | reset k =>
    simp only [step, hn, onInstance, resetTurn] at e
    split at e <;> cases e
  | decoder k =>
    simp only [step, hn, onInstance] at e
    split at e
    · cases e
    · rename_i s' hf
      obtain rfl := (State.focus_spec _ _ _ hf).2.2.1
      by_cases hr : s'.dec.ctrl = ctrlReserved
      · rw [decoderTurn_of_reserved s' hr] at e
        cases e
        exact .inl ⟨rfl, s', .inl hn, hf, hr⟩
      · by_cases hb : s'.dec.ctrl = ctrlBusy
        · rw [decoderTurn_of_busy s' hb] at e; cases e
        · rw [decoderTurn_of_not_busy s' hb hr] at e; cases e
  | host no =>
    rcases step_of_host_cases s no hn with h | h | ⟨h, a, ha⟩
    · rw [h] at e; cases e
    · rw [h] at e; cases e
    · cases a with
      | on k op =>
        rcases hostAt_on_cases s no h k op ha with ⟨_, h⟩ | ⟨s', _, hr | hr⟩
        · rw [h] at e; cases e
        · rw [step_of_reservedReady s s' hr] at e
          cases e
          exact .inl ⟨rfl, s', hr⟩
        · rw [step_of_hostReady s s' no h op hr] at e
          cases ho : hostAct no op (h.uses s'.focused) s' with
          | next p => rw [ho] at e; cases e
          | refused r' => rw [ho] at e; cases e
          | fault r' =>
            rw [ho] at e
            cases e
            obtain ⟨hr', hst⟩ := hostAct_fault _ _ _ _ _ ho
            exact .inr ⟨hr', s', no, h, op, hr, hst⟩
      | _ => rw [step_of_hostAt s no h _ ha] at e; cases e

/-- Settles O43: the two faults of a step need a reserved code, which no legal instance holds; and where a turn meets one it faults. -/
theorem reservedCodesAloneFault : Obligations.ReservedCodesAloneFault := by
  refine ⟨fun s r hs e => ?_, fun s e => ?_, fun s k d hd hr hn => ?_, fun s s' no h hres hr => ?_⟩
  · have legal : ∀ s' : State, s.usedTurn.focus s'.focused = some s' → s'.dec.Inv := fun s' hf =>
      hs.decs_legal _ (List.mem_of_getElem? (State.usedTurn_focus_spec s s' _ hf).2.1)
    rcases step_fault s r e with ⟨_, s', _, hf, hr⟩ | ⟨_, s', no, h, op, ⟨_, hf, _⟩, hr⟩
    · exact (legal s' hf).ctrl_legal hr
    · rw [(legal s' hf).status_not_reserved] at hr
      contradiction
  · rcases step_fault s _ e with ⟨h, _⟩ | ⟨h, _⟩ <;> contradiction
  · obtain ⟨s', hf, rfl⟩ := State.focus_some s.usedTurn k d hd
    obtain rfl := (State.focus_spec _ _ _ hf).2.2.1
    exact step_of_reservedReady s s' ⟨hn, hf, hr⟩
  · rcases hr with hr | ⟨addr, hr, hreg⟩ | ⟨hr, hv⟩ | ⟨st, line, hr⟩
    · exact step_of_hostReady_fault s s' no h _ _ hr (if_pos ⟨rfl, hres⟩)
    · refine step_of_hostReady_fault s s' no h _ _ hr ?_
      simp only [hostAct, hostReadAt, hreg]
      exact if_pos ⟨rfl, hres⟩
    · refine step_of_hostReady_fault s s' no h _ _ hr ?_
      exact (if_neg (not_not.2 hv)).trans (if_pos hres)
    · exact step_of_hostReady_fault s s' no h _ _ hr (if_pos hres)

end Sys2Proof.Machine
end

section
/-!
PROOFS. The turn and the thirteen instructions: what a turn brings into focus and what it refuses (R7, R23), which instruction a Complete step runs (R85, R86),
what an instruction leaves unchanged (R45, R100), and what it lends (R131).
-/

namespace Sys2Proof.Machine

/-! ## The turn -/

/-- IDLE and DONE are neither BUSY nor reserved (R22). -/
theorem ctrl_ne_of_idle_or_done {c : BitVec 2} (h : c = ctrlIdle ∨ c = ctrlDone) : c ≠ ctrlBusy ∧ c ≠ ctrlReserved := by
  rcases h with rfl | rfl <;> decide

/-- The turn of an instance that is not BUSY and not in the reserved state passes (log entry 16). -/
theorem step_of_decoder_pass (s s' : State) (hn : s.nextTurn = .decoder s'.focused) (hf : s.usedTurn.focus s'.focused = some s')
    (hb : s'.dec.ctrl ≠ ctrlBusy) (hr : s'.dec.ctrl ≠ ctrlReserved) : step s = .next s' := by
  simp only [step, hn, onInstance, hf]
  exact decoderTurn_of_not_busy s' hb hr

/-- The turn of an idle host passes (log entry 16). -/
theorem step_of_host_idle (s : State) (no : Nat) (h : HostAgent) (hn : s.nextTurn = .host no) (hh : s.hosts[no]? = some h)
    (hi : h.idle) : step s = .next s.usedTurn := by
  rcases hi with hi | hi
  · simp only [step, hn, hostTurn, State.usedTurn_hosts, hh, hi, if_false]
  · simp only [step, hn, hostTurn, State.usedTurn_hosts, hh, hi, ite_self]

/-- A turn or a host's action of an instance that the machine does not have is refused (log entry 25). -/
theorem step_of_no_instance (s : State) (k : Nat) (hk : s.decs[k]? = none)
    (hn : s.nextTurn = .decoder k ∨ s.nextTurn = .reset k ∨ ∃ (no : Nat) (h : HostAgent) (op : Op), s.hostAt no h (.on k op)) :
    step s = .refused .noSuchInstance := by
  have hf : s.usedTurn.focus k = none := (State.focus_eq_none s.usedTurn k).2 hk
  rcases hn with hn | hn | ⟨no, h, op, ha⟩
  · simp only [step, hn, onInstance, hf]
  · simp only [step, hn, onInstance, hf]
  · rw [step_of_hostAt s no h _ ha]
    simp only [hostLine, hostOn, hf]

/-- Settles O8: `focus` moves the focus alone, and a turn that finds no agent, or no step of one, is refused or passes. -/
theorem turnBringsInstanceIntoFocus : Obligations.TurnBringsInstanceIntoFocus := by
  intro s
  refine ⟨fun k d hd => ?_, step_of_no_instance s, fun no hh hn => ?_, fun k d hd hc hn => ?_, fun no h hh hi hn => ?_⟩
  · obtain ⟨s', hf, rfl⟩ := s.focus_some k d hd
    obtain ⟨h1, _, h3, h4, h5, h6, h7⟩ := State.focus_spec s s' k hf
    exact ⟨s', hf, rfl, h3, h1, h4, h5, h6, h7⟩
  · simp only [step, hn, hostTurn, State.usedTurn_hosts, hh]
  · obtain ⟨s', hf, rfl⟩ := State.focus_some s.usedTurn k d hd
    obtain ⟨h1, _, rfl, h4, h5, h6, h7⟩ := State.usedTurn_focus_spec s s' k hf
    obtain ⟨hb, hr⟩ := ctrl_ne_of_idle_or_done hc
    exact ⟨s', step_of_decoder_pass s s' hn hf hb hr, h1, h4, h5, h6, h7⟩
  · exact step_of_host_idle s no h hn hh hi

/-! ## Which instruction a Complete step runs -/

/-- A header that is available is fetched as the instruction that its bytes decode to (R90). -/
theorem Lane.fetch_of_decode (l : Lane) (i : Instr) (h : l.reqOffset + 7 ≤ l.bufLen)
    (hd : decode (Memory.slice l.buf l.reqOffset 7) = .ok (i, [])) : l.fetch = .instr i := by
  have h0 : ¬ l.bufLen < l.reqOffset := by omega
  have h1 : ¬ l.avail < 7 := by simp only [Lane.avail]; omega
  simp only [Lane.fetch, h0, h1, if_false, Lane.memReadList_of_le l 7 _ h, hd]

/-- Settles O9: the fetch of the turn's Complete gives the decoded instruction. -/
theorem stepRunsDecodedInstruction : Obligations.StepRunsDecodedInstruction := by
  intro s s' i ⟨hn, hf, hb⟩ h7 hd
  have hfetch : s'.lane.fetch = .instr i := Lane.fetch_of_decode s'.lane i h7 hd
  have hr : s'.dec.ctrl ≠ ctrlReserved := hb ▸ ctrlBusy_ne_reserved
  simp only [step, hn, onInstance, hf, decoderTurn, if_neg hr, if_pos hb, completeStep, hfetch]

/-- A word's bytes number as many as asked for. -/
theorem length_bytesOfBits (n : Nat) : ∀ w, (bytesOfBits n w).length = n := by
  induction n with
  | zero => exact fun _ => rfl
  | succ n ih => exact fun w => congrArg (· + 1) (ih _)

/-- A one-byte word is given the 8 bytes of the shortest frame (R75). -/
theorem length_tableBytes (w : Nat) : (tableBytes 8 w).length = 8 := length_bytesOfBits _ _

/-- A one-byte word is an instruction, and its first 7 bytes are that instruction's header. -/
theorem decodeTableWord_eq_some (w : Nat) :
    ∃ i, decodeTableWord 8 w = some i ∧ decode ((tableBytes 8 w).take 7) = .ok (i, []) := by
  rcases decode_cases (tableBytes 8 w) with ⟨h, _⟩ | ⟨t, c0, c1, l0, l1, l2, l3, rest, h⟩
  · rw [length_tableBytes] at h
    omega
  · obtain ⟨i, hi, hw, henc⟩ := decode_cons t c0 c1 l0 l1 l2 l3 rest
    refine ⟨i, by rw [decodeTableWord, h, hi], ?_⟩
    have htake : (tableBytes 8 w).take 7 = encode i ++ [] := by rw [h, henc]; rfl
    rw [htake]
    exact decodeOfEncodeGivesInstruction i [] hw

/-- The bytes of the word stand at the request offset of the buffer into which `withFetchWord` stores them. -/
theorem slice_withFetchWord (s : State) (w : Nat) (hid : s.dec.bufId < s.buffers.length) (hw : Memory.wf (s.buffer s.dec.bufId) = true) :
    Memory.slice (s.withFetchWord 8 w).lane.buf s.dec.reqOffset 7 = (tableBytes 8 w).take 7 := by
  have hbuf : (s.withFetchWord 8 w).lane.buf = Memory.writeList (Memory.below s.lane.buf s.dec.reqOffset) s.dec.reqOffset (tableBytes 8 w) :=
    (State.buffer_of_set s _ _ _ rfl hid _).trans (if_pos rfl)
  have hslice := Memory.slice_writeList _ (Memory.wf_below s.lane.buf hw s.dec.reqOffset) s.dec.reqOffset (tableBytes 8 w)
  rw [length_tableBytes, ← hbuf] at hslice
  rw [← hslice]
  exact (Memory.take_drop_slice _ s.dec.reqOffset 8 0 7 (by omega)).symm

/-- Settles O7: the word's header is stored at the request offset, so that it is what the turn's Complete fetches. -/
theorem tableWordIsFetchedAndRun : Obligations.TableWordIsFetchedAndRun := by
  intro s w hid hw
  obtain ⟨i, hi, hd⟩ := decodeTableWord_eq_some w
  refine ⟨i, hi, ?_⟩
  have hready : (s.withFetchWord 8 w).decoderReady { s.withFetchWord 8 w with turns := s.turns } :=
    ⟨rfl, State.focus_focused _, rfl⟩
  refine stepRunsDecodedInstruction _ _ i hready ?_ ?_
  · show s.dec.reqOffset + 7 ≤ s.dec.reqOffset + max (tableBytes 8 w).length _
    rw [length_tableBytes]
    omega
  · exact (congrArg decode (slice_withFetchWord s w hid hw)).trans hd

/-! ## What an instruction writes -/

/-- Settles O18: the nine UNKNOWN rows have no check but check 2. -/
theorem unknownRowsReportTag : Obligations.UnknownRowsReportTag := by
  intro tag ch len s hb
  refine ⟨?_, ?_, ?_, ?_, ?_, ?_, ?_, ?_, ?_⟩ <;> exact (exec_eq_next _ _ _).2 ⟨hb, rfl⟩

/-- Settles O21: every instruction is Complete with its response, which is enabled exactly from BUSY. -/
theorem everyInstructionCompletesExactlyWhenBusy : Obligations.EveryInstructionCompletesExactlyWhenBusy := by
  intro i s
  exact ⟨fun hb => ⟨_, (exec_eq_next i s _).2 ⟨hb, rfl⟩, rfl, rfl⟩, fun hb t e => hb ((exec_eq_next i s t).1 e).1⟩

/-- A COPY instance lends no window (R61). -/
theorem Decoder.lend_of_copy (d : Decoder) (r : Response) (h : d.params.payloadMode = .copy) : d.lend r = d.borrowed :=
  if_neg fun ⟨hm, _⟩ => by rw [h] at hm; contradiction

/-- A BORROW instance lends the payload window of an OK response (R61, R131). -/
theorem Decoder.lend_of_borrow (d : Decoder) (r : Response) (h : d.params.payloadMode = .borrow) (hok : r.status = Status.ok.code) :
    d.lend r = { start := r.payloadStart, len := r.length.toNat } :: d.borrowed :=
  if_pos ⟨h, hok⟩

/-- The two things that a response can do to the loans. -/
theorem Decoder.lend_cases (d : Decoder) (r : Response) :
    d.lend r = d.borrowed ∨ d.params.payloadMode = .borrow ∧ r.status = Status.ok.code ∧
      d.lend r = { start := r.payloadStart, len := r.length.toNat } :: d.borrowed := by
  unfold Decoder.lend
  split_ifs with h
  · exact .inr ⟨h.1, h.2, rfl⟩
  · exact .inl rfl

/-- The payload of an OK response starts 7 bytes after the request offset (R34). -/
theorem instrResponse_payloadStart (l : Lane) (i : Instr) (h : (instrResponse l i).status = Status.ok.code) :
    (instrResponse l i).payloadStart = l.reqOffset + 7 := by
  obtain ⟨_, _, _, _, _, _, _, hresp⟩ := instrResponse_ok l i h
  rw [hresp, Response.success_payloadStart]

/-- Settles O20: an instruction is Complete with its response, which writes no buffer and lends the payload window at most. -/
theorem instructionFrame : Obligations.InstructionFrame := by
  intro i s t e
  obtain ⟨_, rfl⟩ := (exec_eq_next i s t).1 e
  refine ⟨rfl, rfl, rfl, rfl, rfl, rfl, rfl, rfl, rfl, rfl, rfl, fun _ _ => rfl, ?_⟩
  refine (s.dec.lend_cases (instrResponse s.lane i)).imp_right fun ⟨hm, hok, hl⟩ => ⟨hm, hok, ?_⟩
  rw [instrResponse_payloadStart s.lane i hok] at hl
  exact hl

/-- A range that shares an index with a window on loan in focus is on loan (R131). -/
theorem State.onLoan_of_mem (s : State) (w : Window) (lo hi : Nat) (hw : w ∈ s.dec.borrowed) (hm : w.meets lo hi = true) :
    s.onLoan lo hi = true := by
  have hd : s.dec.onLoan lo hi = true := List.any_eq_true.2 ⟨w, hw, hm⟩
  exact List.any_eq_true.2 ⟨s.dec, s.dec_mem, by simp [hd]⟩

/-- Settles O23: Complete lends the window of the payload, and of all that a step does to an instance only Complete and RELEASE write its loans. -/
theorem borrowedPayloadIsOnLoan : Obligations.BorrowedPayloadIsOnLoan := by
  refine ⟨fun i s t e hok => ?_, fun s t j d d' e hd hd' => ?_⟩
  · obtain ⟨_, rfl⟩ := (exec_eq_next i s t).1 e
    refine ⟨s.dec.lend_of_copy _, fun hm lo hi hlt hlen h1 h2 => ?_⟩
    simp only [State.completed_dec, Decoder.complete_resp] at hok hlen h1
    have hpos : (instrResponse s.lane i).length.toNat ≠ 0 := fun h0 => hlen (BitVec.eq_of_toNat_eq h0)
    have hlent := s.dec.lend_of_borrow _ hm hok
    rw [instrResponse_payloadStart s.lane i hok] at hlent
    exact State.onLoan_of_mem _ _ lo hi (hlent ▸ List.mem_cons_self) (by simp [Window.meets, hpos, hlt, h1, h2])
  · cases step_dec s t j d d' e hd hd' with
    | complete hn hb =>
      exact (d.lend_cases _).imp_right fun ⟨hm, hok, hl⟩ => .inl ⟨hn, hm, hok, hl⟩
    | release no h ha => exact .inr (.inr ⟨⟨no, h, ha⟩, rfl⟩)
    | waited no h op ha => exact .inl (d.waitedFor_borrowed no)
    | _ => exact .inl rfl

end Sys2Proof.Machine
end

section
/-!
PROOFS. The controller and the frame of a step: who changes CTRL_STATE (R23), the registers (R24) and the buffers (R48, R160), what of the other instances and
hosts a step leaves (R44, R164), and that the default turn completes a BUSY instance (R175).
-/

namespace Sys2Proof.Machine

/-! ## Who writes what -/

/-- Settles O47: of all that a step does to the buffers, only a host's action changes one. -/
theorem blockNeverWritesBuffer : Obligations.BlockNeverWritesBuffer := by
  intro s t e hn
  rcases step_buffers s t e with h | ⟨no, _, _, _, _, _, ha, _⟩
  · exact h
  · exact absurd ha.1 (hn no)

/-- An instance that is neither BUSY nor reserved is IDLE or DONE (R22). -/
theorem ctrl_idle_or_done {c : BitVec 2} (hb : c ≠ ctrlBusy) (hr : c ≠ ctrlReserved) : c = ctrlIdle ∨ c = ctrlDone := by
  revert c
  decide

/-- What a step does to CTRL_STATE of an instance: Accept, Complete and Reset alone write it (R23). -/
theorem DecStep.ctrl {s : State} {j : Nat} {d d' : Decoder} (h : DecStep s j d d') (hne : d'.ctrl ≠ d.ctrl) :
    ((d.ctrl = ctrlIdle ∨ d.ctrl = ctrlDone) ∧ d'.ctrl = ctrlBusy ∧
        ∃ (no : Nat) (h : HostAgent) (o : OffsetArg), s.hostAt no h (.on j (.decode o)) ∨ s.hostAt no h (.on j (.request o))) ∨
      (s.nextTurn = .decoder j ∧ d.ctrl = ctrlBusy ∧ d'.ctrl = ctrlDone) ∨
      ((s.nextTurn = .reset j ∨ ∃ (no : Nat) (h : HostAgent), s.hostAt no h (.on j .reset)) ∧ d'.ctrl = ctrlIdle) := by
  cases h with
  | complete hn hb => exact .inr (.inl ⟨hn, hb, rfl⟩)
  | reset hn => exact .inr (.inr ⟨hn, rfl⟩)
  | accept no h o ha hb hr ho => exact .inl ⟨ctrl_idle_or_done hb hr, rfl, no, h, o, ha⟩
  | waited no h op ha => exact absurd (d.waitedFor_ctrl no) hne
  | _ => exact absurd rfl hne

/-- Settles O36: the changes of CTRL_STATE are those of `DecStep`, and each of the three operations makes its change. -/
theorem controllerTransitions : Obligations.ControllerTransitions := by
  refine ⟨fun s t j d d' e hd hd' hne => (step_dec s t j d d' e hd hd').ctrl hne, fun s s' no h o hr ho => ⟨fun hc => ?_, fun hb t e => ?_⟩,
    fun s s' hr => ?_, fun s s' hr => ⟨_, step_of_resetReady s s' hr, rfl⟩, fun s t k d hd hc hn e => ?_, fun s t no h hh hi hn e => ?_⟩
  · obtain ⟨h', _, e⟩ := step_of_request s s' no h o (.inl hr) (ctrl_ne_of_idle_or_done hc).1 ho
    exact ⟨_, e, rfl⟩
  · rw [step_of_request_of_busy s s' no h o (.inl hr) hb] at e
    contradiction
  · exact ⟨_, step_of_decoderReady s s' hr, by rw [State.noteError_dec]; rfl⟩
  · obtain ⟨s', hf, rfl⟩ := State.focus_some s.usedTurn k d hd
    obtain ⟨h1, _, rfl, _⟩ := State.usedTurn_focus_spec s s' k hf
    obtain ⟨hb, hr⟩ := ctrl_ne_of_idle_or_done hc
    rw [step_of_decoder_pass s s' hn hf hb hr] at e
    cases e
    exact h1
  · rw [step_of_host_idle s no h hn hh hi] at e
    cases e
    rfl

/-- What a step does to REQ_OFFSET and the response of an instance: Accept, Complete and Reset alone write them (R27, R28, R43). -/
theorem DecStep.response {s : State} {j : Nat} {d d' : Decoder} (h : DecStep s j d d') :
    (d'.reqOffset = d.reqOffset ∧ d'.resp = d.resp ∧ d'.respValid = d.respValid) ∨
      ((∃ (no : Nat) (h : HostAgent) (o : OffsetArg),
          (s.hostAt no h (.on j (.decode o)) ∨ s.hostAt no h (.on j (.request o))) ∧ d'.reqOffset = o.value h) ∧
        d.ctrl ≠ ctrlBusy ∧ d'.ctrl = ctrlBusy ∧ d'.resp = Response.zero ∧ d'.respValid = 0) ∨
      (s.nextTurn = .decoder j ∧ d.ctrl = ctrlBusy ∧ d'.ctrl = ctrlDone ∧ d'.reqOffset = d.reqOffset ∧ d'.respValid = 1 ∧
        completeResponse { d with buf := s.buffer d.bufId } = some d'.resp) ∨
      ((s.nextTurn = .reset j ∨ ∃ (no : Nat) (h : HostAgent), s.hostAt no h (.on j .reset)) ∧
        d'.ctrl = ctrlIdle ∧ d'.reqOffset = 0 ∧ d'.resp = Response.zero ∧ d'.respValid = 0) := by
  cases h with
  | complete hn hb =>
    exact .inr (.inr (.inl ⟨hn, hb, rfl, rfl, rfl, completeResponse_of_busy { d with buf := s.buffer d.bufId } hb⟩))
  | reset hn => exact .inr (.inr (.inr ⟨hn, rfl, rfl, rfl, rfl⟩))
  | accept no h o ha hb hr ho => exact .inr (.inl ⟨⟨no, h, o, ha, rfl⟩, hb, rfl, rfl, rfl⟩)
  | waited no h op ha => exact .inl ⟨d.waitedFor_reqOffset no, d.waitedFor_resp no, d.waitedFor_respValid no⟩
  | _ => exact .inl ⟨rfl, rfl, rfl⟩

/-- What a step does to BUF_LEN of an instance: Reset and a host's change of the buffer alone write it (R46, R160). -/
theorem DecStep.bufLen {s : State} {j : Nat} {d d' : Decoder} (h : DecStep s j d d') (hm : d ∈ s.decs) :
    d'.bufLen = d.bufLen ∨
      ((s.nextTurn = .reset j ∨ ∃ (no : Nat) (h : HostAgent), s.hostAt no h (.on j .reset)) ∧ d'.bufLen = 0) ∨
      (d.ctrl ≠ ctrlBusy ∧ d'.bufLen ≤ d.params.bufCapacity ∧
        ∃ (no k : Nat) (h : HostAgent) (op : Op) (d₀ : Decoder),
          s.hostAt no h (.on k op) ∧ op.changesBuffer = true ∧ s.decs[k]? = some d₀ ∧ d₀.bufId = d.bufId) := by
  cases h with
  | reset hn => exact .inr (.inl ⟨hn, rfl⟩)
  | waited no h op ha => exact .inl (d.waitedFor_bufLen no)
  | buffer no h k n op d₀ ha hop h0 hs hb hn => exact .inr (.inr ⟨hb, hn d hm rfl, no, k, h, op, d₀, ha, hop, h0, hs.symm⟩)
  | _ => exact .inl rfl

/-- Settles O37: register by register, what `DecStep` writes. -/
theorem registersWrittenOnlyByAcceptCompleteReset : Obligations.RegistersWrittenOnlyByAcceptCompleteReset := by
  intro s t j d d' e hd hd'
  have h := step_dec s t j d d' e hd hd'
  exact ⟨h.response, h.bufLen (List.mem_of_getElem? hd)⟩

/-! ## The other instances, buffers and hosts -/

/-- An instance that the turn does not act on changes with its buffer alone (log entry 9). -/
theorem DecStep.of_not_acted {s : State} {j : Nat} {d d' : Decoder} (h : DecStep s j d d') (hn : s.nextTurn ≠ .decoder j)
    (hr : s.nextTurn ≠ .reset j) (ha : ∀ (no : Nat) (h : HostAgent) (op : Op), ¬ s.hostAt no h (.on j op)) :
    d' = d ∨ ∃ (no k n : Nat) (h : HostAgent) (op : Op) (d₀ : Decoder), s.hostAt no h (.on k op) ∧ op.changesBuffer = true ∧
      s.decs[k]? = some d₀ ∧ d₀.bufId = d.bufId ∧ d' = { d with bufLen := n } := by
  cases h with
  | same => exact .inl rfl
  | complete hn' hb => exact absurd hn' hn
  | reset hn' =>
    rcases hn' with hn' | ⟨no, h, ha'⟩
    · exact absurd hn' hr
    · exact absurd ha' (ha no h _)
  | accept no h o ha' hb hr' ho => rcases ha' with ha' | ha' <;> exact absurd ha' (ha no h _)
  | waited no h op ha' => exact absurd ha' (ha no h _)
  | release no h ha' => exact absurd ha' (ha no h _)
  | buffer no h k n op d₀ ha' hop h0 hs hb hn' => exact .inr ⟨no, k, n, h, op, d₀, ha', hop, h0, hs.symm, rfl⟩

/-- A buffer changes by a host's buffer change on an instance that is given it (R45, R48). -/
theorem step_buffer_getElem? (s t : State) (e : step s = .next t) (b : Nat) :
    t.buffers[b]? = s.buffers[b]? ∨ ∃ (no k : Nat) (h : HostAgent) (op : Op) (d₀ : Decoder),
      s.hostAt no h (.on k op) ∧ op.changesBuffer = true ∧ s.decs[k]? = some d₀ ∧ d₀.bufId = b := by
  rcases step_buffers s t e with h | ⟨no, h, k, op, d, m, ha, hop, hd, _, _, hset, _⟩
  · exact .inl (by rw [h])
  · by_cases hb : d.bufId = b
    · exact .inr ⟨no, k, h, op, d, ha, hop, hd, hb⟩
    · exact .inl (by rw [hset, List.getElem?_set_ne hb])

/-- A host whose turn it is not can be marked, by the Complete that answers its request, and nothing else (log entry 27). -/
theorem step_other_host (s t : State) (no : Nat) (h h' : HostAgent) (e : step s = .next t) (hn : s.nextTurn ≠ .host no)
    (hh : s.hosts[no]? = some h) (hh' : t.hosts[no]? = some h') :
    h' = h ∨ h' = { h with structural := true } ∧ ∃ (j : Nat) (d : Decoder), s.nextTurn = .decoder j ∧ s.decs[j]? = some d ∧
      d.requester = some no := by
  rcases step_host s t no h h' e hh hh' with ⟨_, heq | ⟨heq, s', hr, hreq, _⟩⟩ | ⟨hn', _⟩ | ⟨hn', _⟩
  · exact .inl heq
  · exact .inr ⟨heq, s'.focused, s'.dec, hr.1, (State.usedTurn_focus_spec s s' _ hr.2.1).2.1, hreq⟩
  · exact absurd hn' hn
  · exact absurd hn' hn

/-- Settles O48: the shape of the machine is kept, and each instance, buffer and host changes as the lemmas on it say. -/
theorem stepLeavesOtherInstances : Obligations.StepLeavesOtherInstances := by
  intro s t e
  obtain ⟨hdecs, hturns, hhosts, hbuffers⟩ := step_shape s t e
  refine ⟨hdecs, hhosts, hbuffers, hturns, step_map_decs_of_decStep_keeps (fun d => d.bufId) (fun h => h.keeps.2) s t e, ?_,
    step_buffer_getElem? s t e, fun no h h' hn hh hh' => step_other_host s t no h h' e hn hh hh'⟩
  exact fun j d d' hn hr ha hd hd' => (step_dec s t j d d' e hd hd').of_not_acted hn hr ha

/-! ## The default turn -/

/-- Where some instance is BUSY, `firstBusy` gives the number of one. -/
theorem firstBusy_spec (ds : List Decoder) (h : ∃ d ∈ ds, d.ctrl = ctrlBusy) :
    ∃ k d, firstBusy ds = some k ∧ ds[k]? = some d ∧ d.ctrl = ctrlBusy := by
  induction ds with
  | nil => simp at h
  | cons c ds ih =>
    by_cases hc : c.ctrl = ctrlBusy
    · exact ⟨0, c, if_pos hc, rfl, hc⟩
    · obtain ⟨d, hd, hb⟩ := h
      have hd : d ∈ ds := (List.mem_cons.1 hd).resolve_left fun h => hc (h ▸ hb)
      obtain ⟨k, d', hk, hd', hb'⟩ := ih ⟨d, hd, hb⟩
      exact ⟨k + 1, d', by simp only [firstBusy, if_neg hc, hk, Option.map_some], hd', hb'⟩

/-- Settles O50: the default turn is that of the first BUSY instance, whose Complete makes it DONE. -/
theorem busyInstancesComplete : Obligations.BusyInstancesComplete := by
  intro s ht hbusy
  obtain ⟨k, d, hk, hd, hb⟩ := firstBusy_spec s.decs hbusy
  obtain ⟨s', hf, rfl⟩ := State.focus_some s.usedTurn k d hd
  obtain ⟨hdecs, _, rfl, _, _, hturns, _⟩ := State.usedTurn_focus_spec s s' k hf
  have hn : s.nextTurn = .decoder s'.focused := by simp only [State.nextTurn, ht, hk]
  refine ⟨_, step_of_decoderReady s s' ⟨hn, hf, hb⟩, by rw [State.noteError_turns, State.completed_turns, hturns, ht]; rfl, ?_⟩
  obtain ⟨hlt, hget⟩ := List.getElem?_eq_some_iff.1 hd
  have hpos : 0 < s.decs.countP fun d => decide (d.ctrl = ctrlBusy) :=
    List.countP_pos_iff.2 (hbusy.imp fun d h => ⟨h.1, decide_eq_true h.2⟩)
  rw [State.noteError_decs, State.completed, State.decs_with_dec, hdecs, List.countP_set hlt, hget]
  simp only [hb, decide_true, if_true, Decoder.complete_ctrl, (by decide : ctrlDone ≠ ctrlBusy), decide_false, Bool.false_eq_true,
    if_false]
  omega

end Sys2Proof.Machine
end

section
/-!
PROOFS. The steps of a host (R125 to R139): the changes of a buffer (R126, R136), ADVANCE (R130), the register reads (R24, R129), the DECODE line and the wait
(R128), the control flow (R79, R139), the other actions, and the steps that do not exist (R138).
-/

namespace Sys2Proof.Machine

/-! ## The host after an action -/

/-- The host that goes on to its next line has changed in nothing else but the instances it has used. -/
theorem HostAgent.nextLine_uses_eq (h : HostAgent) (k : Nat) :
    (h.uses k).nextLine = { h with line := h.line + 1, awaiting := false, used := (h.uses k).nextLine.used } := by
  unfold HostAgent.uses
  split <;> rfl

/-- The host after a drop has changed in nothing else but its cursor, its line and the instances it has used. -/
theorem HostAgent.rebased_uses_eq (h : HostAgent) (k n : Nat) :
    (h.uses k).rebased n =
      { h with cur := h.cur - n, line := h.line + 1, awaiting := false, used := ((h.uses k).rebased n).used } := by
  unfold HostAgent.uses
  split <;> rfl

/-- The host whose line begins or ends a wait has changed in nothing else but the instances it has used. -/
theorem HostAgent.awaiting_uses_eq (h : HostAgent) (k : Nat) (w : Bool) :
    { h.uses k with awaiting := w } = { h with awaiting := w, used := (h.uses k).used } := by
  unfold HostAgent.uses
  split <;> rfl

/-- The host that takes a branch or goes on has changed in nothing else but the instances it has used. -/
theorem HostAgent.branch_uses_eq (h : HostAgent) (k line : Nat) (c : Prop) [Decidable c] :
    (if c then (h.uses k).goto line else (h.uses k).nextLine) =
      { h with line := if c then line else h.line + 1, awaiting := false,
               used := (if c then (h.uses k).goto line else (h.uses k).nextLine).used } := by
  unfold HostAgent.uses
  split_ifs <;> rfl

/-! ## The changes of a buffer -/

/-- Whether a machine is legal rests on its instances and its buffers alone. -/
theorem State.Inv.congr {s t : State} (h : s.Inv) (hd : t.decs = s.decs) (hb : t.buffers = s.buffers) : t.Inv := by
  have hbuf : t.buffer = s.buffer := funext fun b => by rw [State.buffer, hb]; rfl
  constructor
  · rw [hd]; exact h.decs_legal
  · rw [hd]; exact h.len_fits
  · rw [hb]; exact h.buffers_wf
  · rw [hd, hb]; exact h.buffer_exists
  · rw [hd, hbuf]; exact h.buffer_fits

/-- A legal machine is legal with another instance in focus and its turn used up. -/
theorem State.Inv.usedTurn_focus {s s' : State} {k : Nat} (h : s.Inv) (hf : s.usedTurn.focus k = some s') : s'.Inv := by
  obtain ⟨hd, _, _, hb, _⟩ := State.usedTurn_focus_spec s s' k hf
  exact h.congr hd hb

/-- In a legal machine BUF_LEN is within the capacity of the buffer (R46). -/
theorem State.Inv.bufLen_le_capacity {s : State} (h : s.Inv) : s.dec.bufLen ≤ s.capacity :=
  (State.le_capacity s _).2 fun d hd hid => h.len_fits s.dec s.dec_mem d hd hid

/-- In a legal machine the buffer in focus is in canonical form. -/
theorem State.Inv.lane_buf_wf {s : State} (h : s.Inv) : Memory.wf s.lane.buf = true := by
  have hid := h.buffer_exists s.dec s.dec_mem
  rw [State.lane_buf, State.buffer, List.getD_eq_getElem _ _ hid]
  exact h.buffers_wf _ (List.getElem_mem hid)

section changed

variable (s : State) (draws no n : Nat) (h : HostAgent) (m : Memory)

/-- The machine after a host has changed the buffer in focus and has gone on. -/
def State.bufferChanged : State :=
  ({ s with draws := draws }.replaceBuffer m n).setHost no h

@[simp] theorem State.bufferChanged_dec : (s.bufferChanged draws no n h m).dec = { s.dec with bufLen := n } := if_pos rfl

@[simp] theorem State.bufferChanged_bufLen : (s.bufferChanged draws no n h m).dec.bufLen = n := by simp

/-- The contents of the buffers after a change. -/
theorem State.bufferChanged_buffer (hid : s.dec.bufId < s.buffers.length) (b : Nat) :
    (s.bufferChanged draws no n h m).buffer b = if b = s.dec.bufId then m else s.buffer b :=
  State.replaceBuffer_buffer { s with draws := draws } m n b hid

/-- The storage in focus after a change. -/
theorem State.bufferChanged_lane_buf (hid : s.dec.bufId < s.buffers.length) : (s.bufferChanged draws no n h m).lane.buf = m := by
  rw [State.lane_buf, State.bufferChanged_dec, State.bufferChanged_buffer s draws no n h m hid, if_pos rfl]

/-- The bytes of the buffer in focus after a change. -/
theorem State.bufferChanged_bytes (hid : s.dec.bufId < s.buffers.length) :
    (s.bufferChanged draws no n h m).lane.bytes = Memory.slice m 0 n := by
  rw [Lane.bytes, State.bufferChanged_lane_buf s draws no n h m hid, State.lane_toDecoder, State.bufferChanged_dec]

/-- A change of the buffer writes BUF_LEN of the instances that are given it, and nothing else of the machine but its host (log entry 9). -/
theorem State.bufferChanged_only (hid : s.dec.bufId < s.buffers.length) : s.onlyBufferChanges (s.bufferChanged draws no n h m) n := by
  refine ⟨State.replaceBuffer_decs _ m n, State.replaceBuffer_focused _ m n, s.bufferChanged_dec draws no n h m, fun b hb => ?_, rfl⟩
  rw [State.bufferChanged_buffer s draws no n h m hid, if_neg hb]

end changed

/-- Settles O51: the bytes are stored from index 0 on. -/
theorem bufferWriteEffect : Obligations.BufferWriteEffect := by
  intro s s' no h bs hs hr hb hn hl
  have hs' : s'.Inv := hs.usedTurn_focus hr.2.1
  have hid := hs'.buffer_exists s'.dec s'.dec_mem
  have e := step_of_hostReady_next s s' _ no h _ _ hr ((hostWrite_eq_next _ _ _ _ bs).2 ⟨rfl, hb, hn, hl, hid, rfl⟩)
  refine ⟨s'.bufferChanged s'.draws no _ _ _, _, e, ?_, ?_, fun a ha => ?_, State.bufferChanged_only _ _ _ _ _ _ hid, rfl,
    h.nextLine_uses_eq _⟩
  · rw [State.bufferChanged_bytes _ _ _ _ _ _ hid, Memory.slice_writeList _ hs'.lane_buf_wf]
  · rw [State.bufferChanged_bufLen]
  · rw [State.bufferChanged_lane_buf _ _ _ _ _ _ hid, Memory.read_writeList _ _ hs'.lane_buf_wf, if_neg (by omega)]

/-- The buffer after an append: the old bytes and the new ones. -/
theorem Memory.slice_writeList_append (m : Memory) (hm : Memory.wf m = true) (n : Nat) (bs : List Byte) :
    Memory.slice (Memory.writeList m n bs) 0 (n + bs.length) = Memory.slice m 0 n ++ bs := by
  have hold : Memory.slice (Memory.writeList m n bs) 0 n = Memory.slice m 0 n :=
    Memory.slice_congr _ _ _ _ fun x _ hx => by rw [Memory.read_writeList _ _ hm, if_neg (by omega)]
  rw [Memory.slice_add, hold, Nat.zero_add, Memory.slice_writeList m hm]

/-- Settles O52: the bytes are stored from BUF_LEN on. -/
theorem appendEffect : Obligations.AppendEffect := by
  intro s s' no h bs hs hr hb hn hl
  have hs' : s'.Inv := hs.usedTurn_focus hr.2.1
  have hid := hs'.buffer_exists s'.dec s'.dec_mem
  have e := step_of_hostReady_next s s' _ no h _ _ hr ((hostAppend_eq_next _ _ _ _ bs).2 ⟨rfl, hb, hn, hl, hid, rfl⟩)
  refine ⟨s'.bufferChanged s'.draws no _ _ _, _, e, ?_, ?_, fun a ha => ?_, State.bufferChanged_only _ _ _ _ _ _ hid, rfl,
    h.nextLine_uses_eq _⟩
  · rw [State.bufferChanged_bytes _ _ _ _ _ _ hid, Memory.slice_writeList_append _ hs'.lane_buf_wf]
    rfl
  · rw [State.bufferChanged_bufLen]
  · rw [State.bufferChanged_lane_buf _ _ _ _ _ _ hid, Memory.read_writeList _ _ hs'.lane_buf_wf, if_neg (by omega)]

/-- The bytes of a lane without the first `k`. -/
theorem Lane.drop_bytes (l : Lane) (k : Nat) (h : k ≤ l.bufLen) : l.bytes.drop k = Memory.slice l.buf k (l.bufLen - k) := by
  rw [← l.take_drop_bytes k (l.bufLen - k) (by omega), List.take_of_length_le (by rw [List.length_drop, l.length_bytes])]

/-- The storage after a drop: the rest of the buffer, and then what was there (R136). -/
theorem Lane.dropped_spec (l : Lane) (hm : Memory.wf l.buf = true) (k : Nat) (h : k ≤ l.bufLen) :
    Memory.slice (l.dropped k) 0 (l.bufLen - k) = l.bytes.drop k ∧
      ∀ a, l.bufLen - k ≤ a → Memory.read (l.dropped k) a = Memory.read l.buf a := by
  have hlen : (Memory.slice l.buf k (l.bufLen - k)).length = l.bufLen - k := Memory.length_slice _ _ _
  refine ⟨?_, fun a ha => ?_⟩
  · have hslice := Memory.slice_writeList l.buf hm 0 (Memory.slice l.buf k (l.bufLen - k))
    rw [hlen] at hslice
    exact hslice.trans (l.drop_bytes k h).symm
  · rw [Lane.dropped, Memory.read_writeList _ _ hm, if_neg (by omega)]

/-- Settles O53: a drop of held bytes stores the rest from index 0 on, and a drop of more stores the free value. -/
theorem dropEffect : Obligations.DropEffect := by
  intro s s' no h k hs hr hb hk
  have hs' : s'.Inv := hs.usedTurn_focus hr.2.1
  have hid := hs'.buffer_exists s'.dec s'.dec_mem
  have hcur : k ≤ (h.uses s'.focused).cur := by rwa [HostAgent.uses_cur]
  refine ⟨fun hle hl => ?_, fun hlt hl => ?_⟩
  · have hn : s'.dec.bufLen - k ≤ s'.capacity := (Nat.sub_le _ _).trans hs'.bufLen_le_capacity
    have e := step_of_hostReady_next s s' _ no h _ _ hr ((hostDrop_eq_next _ _ _ _ k).2
      ⟨hb, hcur, .inl ⟨hle, (dropHeld_eq_next _ _ _ _ k).2 ⟨rfl, hb, hn, hl, hid, rfl⟩⟩⟩)
    obtain ⟨hbytes, hread⟩ := s'.lane.dropped_spec hs'.lane_buf_wf k hle
    refine ⟨s'.bufferChanged s'.draws no _ _ _, _, e, ?_, ?_, fun a ha => ?_, State.bufferChanged_only _ _ _ _ _ _ hid, rfl,
      h.rebased_uses_eq _ k⟩
    · rw [State.bufferChanged_bytes _ _ _ _ _ _ hid]
      exact hbytes
    · rw [State.bufferChanged_bufLen]
    · rw [State.bufferChanged_lane_buf _ _ _ _ _ _ hid]
      exact hread a ha
  · have e := step_of_hostReady_next s s' _ no h _ _ hr ((hostDrop_eq_next _ _ _ _ k).2
      ⟨hb, hcur, .inr ⟨hlt, (dropBeyond_eq_next _ _ _ _ k).2 ⟨rfl, hb, hl, hid, rfl⟩⟩⟩)
    refine ⟨s'.bufferChanged (s'.draws + 1) no _ _ _, _, e, ?_, ?_, fun a ha => ?_, rfl, h.rebased_uses_eq _ k⟩
    · rw [State.bufferChanged_bufLen]
      exact s'.length_freeBuffer
    · rw [State.bufferChanged_bufLen]
      exact State.bufferChanged_only _ _ _ _ _ _ hid
    · rw [State.bufferChanged_lane_buf _ _ _ _ _ _ hid]
      rw [State.bufferChanged_bufLen] at ha
      rcases ha with ha | ha
      · rw [Memory.read_writeList _ _ hs'.lane_buf_wf, if_neg (by omega)]
      · exact s'.read_freeBuffer hs'.lane_buf_wf a ha

/-! ## ADVANCE and the register reads -/

/-- A one-hot code presents its type (R76). -/
theorem ofOnehot_onehot (t : FrameType) : ofOnehot t.onehot = some t := by
  cases t <;> rfl

/-- A response that presents a frame hands on the frame of its type, channel and payload (R39, R130). -/
theorem Response.PresentsAt.frame {o : Nat} {r : Response} (h : r.PresentsAt o) :
    ∃ t : FrameType, r.type = t.tag ∧ r.frame = some { type := t, channel := r.channel, payload := r.payload } := by
  obtain ⟨hok, ⟨t, htag, hdisp⟩, _⟩ := h
  exact ⟨t, htag, by rw [Response.frame, if_pos hok, hdisp, ofOnehot_onehot, Option.map_some]⟩

/-- An error response hands on no frame and consumes nothing (log entry 11). -/
theorem Response.Reports.frame {r : Response} (h : r.Reports) : r.status ≠ Status.ok.code ∧ r.frame = none ∧ r.consumed = 0 := by
  obtain ⟨st, hne, hst⟩ := h.status
  have hnok : r.status ≠ Status.ok.code := fun hok => hne (Status.code_inj.1 (hst.symm.trans hok))
  exact ⟨hnok, if_neg hnok, h.1.2.2.2.2.2.1⟩

/-- Settles O54: a legal held response presents a frame, which is handed on, or reports an error, which moves nothing. -/
theorem advanceEffect : Obligations.AdvanceEffect := by
  intro s s' no h hr hi hv
  have e := step_of_hostReady_next s s' _ no h _ _ hr
    ((hostAdvance_eq_next _ _ _ _).2 ⟨hv, hi.status_not_reserved, rfl, rfl⟩)
  refine ⟨_, e, by simp, by simp [HostAgent.nextLine], ?_⟩
  simp only [HostAgent.nextLine_delivered, HostAgent.nextLine_cur, HostAgent.uses_delivered, HostAgent.uses_cur]
  rcases hi.response_shape hv with hp | hrep
  · obtain ⟨t, htag, hframe⟩ := hp.frame
    exact ⟨fun _ => ⟨t, htag, by rw [hframe]; rfl⟩, fun hne => absurd hp.1 hne⟩
  · obtain ⟨hne, hframe, hcons⟩ := hrep.frame
    exact ⟨fun hok => absurd hok hne, fun _ => ⟨by rw [hcons, Nat.add_zero], by rw [hframe, Option.toList_none, List.append_nil]⟩⟩

/-- The step of a register read that finds no reserved status: the host keeps the value and goes on. -/
theorem step_of_read (s s' : State) (no : Nat) (h : HostAgent) (op : Op) (r : Reg) (hr : s.hostReady s' no h op)
    (hop : hostAct no op (h.uses s'.focused) s' = hostRead r (h.uses s'.focused) s')
    (hres : r = .respStatus → statusReserved s'.dec.resp.status = false) :
    ∃ h' : HostAgent, step s = .next (s'.setHost no h') ∧ h'.seen = some (s'.dec.readReg r) ∧
      h' = { h with seen := h'.seen, line := h.line + 1, awaiting := false, used := h'.used } := by
  refine ⟨_, step_of_hostReady_next s s' _ no h _ _ hr (hop.trans ((hostRead_eq_next _ _ _ _ r).2 ⟨fun hc => ?_, rfl, rfl⟩)), by simp,
    by simp [HostAgent.nextLine]⟩
  rw [hres hc.1] at hc
  exact Bool.false_ne_true hc.2

/-- Settles O55: the value kept is `readReg` of the register, which is read off for each of the fifteen. -/
theorem registerReadHasNoSideEffect : Obligations.RegisterReadHasNoSideEffect := by
  intro s s' no h r hr hres
  obtain ⟨h', e, hseen, hrest⟩ := step_of_read s s' no h _ r hr rfl hres
  refine ⟨h', e, hseen, hrest, ?_⟩
  rw [hseen]
  refine ⟨?_, ?_, ?_, ?_, ?_, ?_, ?_, ?_, ?_, ?_, ?_, ?_, ?_, ?_, ?_⟩ <;> rintro rfl <;> rfl

/-! ## The DECODE line, the request and the wait -/

/-- RESP_VALID 0 is not 1. -/
theorem respValid_ne_one {v : BitVec 1} (h : v = 0) : v ≠ 1#1 := by
  rw [h]
  decide

/-- The instance after a wait differs in the requester alone. -/
theorem State.sameInstances_waitedFor (s : State) (no : Nat) (h : HostAgent) :
    s.sameInstances (State.setHost { s with dec := s.dec.waitedFor no } no h) :=
  ⟨s.dec.sameRegs_waitedFor no, s.dec.waitedFor_borrowed no, rfl, rfl, rfl, rfl, rfl⟩

/-- Settles O56: the four cases of the line are those of its action. -/
theorem decodeLineWaits : Obligations.DecodeLineWaits := by
  intro s s' no h o hr
  have run : ∀ (h' : HostAgent) (u : State), hostDecode no o (h.uses s'.focused) s' = .next (h', u) → step s = .next (u.setHost no h') :=
    fun h' u => step_of_hostReady_next s s' u no h h' _ hr
  simp only [hostDecode_eq_next, HostAgent.uses_awaiting, OffsetArg.value_uses] at run
  refine ⟨fun haw hb ho => ?_, fun haw hb => ?_, fun haw hb hv => ?_, fun haw hb hv => ?_⟩
  · exact ⟨_, _, run _ _ (.inr ⟨haw, hb, ho, rfl, rfl⟩), rfl, h.awaiting_uses_eq _ true⟩
  · exact ⟨_, run _ _ (.inl ⟨haw, .inl ⟨hb, rfl, rfl⟩⟩), h.uses_eq _⟩
  · exact ⟨_, _, run _ _ (.inl ⟨haw, .inr (.inl ⟨hb, hv, rfl, rfl⟩)⟩), s'.sameInstances_waitedFor no _, rfl, h.nextLine_uses_eq _⟩
  · exact ⟨_, run _ _ (.inl ⟨haw, .inr (.inr ⟨hb, respValid_ne_one hv, rfl, rfl⟩)⟩), h.awaiting_uses_eq _ false⟩

/-! ## Control flow -/

/-- A host stands at one action. -/
theorem State.hostAt_unique {s : State} {no : Nat} {h : HostAgent} {a b : Action} (ha : s.hostAt no h a) (hb : s.hostAt no h b) : a = b := by
  obtain ⟨_, _, _, ha⟩ := ha
  obtain ⟨_, _, _, hb⟩ := hb
  exact Option.some.inj (ha.symm.trans hb)

/-- The run of a host that has stopped is over when every instance it has used is IDLE or DONE (R139, log entry 27). -/
theorem State.runOver_eq_true (s : State) (h : HostAgent) (hrun : h.run ≠ .running) :
    s.runOver h = true ↔ ∀ k ∈ h.used, ∀ d : Decoder, s.decs[k]? = some d → d.ctrl = ctrlIdle ∨ d.ctrl = ctrlDone := by
  simp only [State.runOver, decide_eq_true hrun, Bool.true_and, List.all_eq_true, Option.all_eq_true, Bool.or_eq_true, decide_eq_true_eq]

/-- A failed run is one that is over and that ABORT ended after a structural error (R139). -/
theorem State.runFailed_eq_true (s : State) (h : HostAgent) :
    s.runFailed h = true ↔ s.runOver h = true ∧ h.run = .aborted true := by
  simp only [State.runFailed, Bool.and_eq_true, decide_eq_true_eq]

/-- Settles O57: IF and GOTO write the line, HALT and ABORT the run; whether it is over is read from the instances. -/
theorem hostControlFlow : Obligations.HostControlFlow := by
  refine ⟨fun s s' no h st line hr hres => ?_, fun s no h line ha => step_of_hostAt s no h _ ha, fun s no h ha => ?_⟩
  · refine ⟨_, step_of_hostReady_next s s' _ no h _ _ hr ((hostIf_eq_next _ _ _ _ st line).2 ⟨hres, rfl, rfl⟩), ?_⟩
    exact h.branch_uses_eq _ line _
  · rcases ha with ha | ha
    · refine ⟨_, _, step_of_hostAt s no h _ ha, rfl, fun _ => ⟨rfl, ?_⟩, fun hb => ?_, State.runOver_eq_true _ _ (by simp)⟩
      · rw [Bool.eq_false_iff, ne_eq, State.runFailed_eq_true]
        simp
      · cases State.hostAt_unique ha hb
    · refine ⟨_, _, step_of_hostAt s no h _ ha, rfl, fun hb => ?_, fun _ => ⟨rfl, ?_⟩, State.runOver_eq_true _ _ (by simp)⟩
      · cases State.hostAt_unique ha hb
      · rw [State.runFailed_eq_true]
        simp

/-! ## The other actions -/

/-- Settles O60: each action by its own lemma, and the indices by the table of R24. -/
theorem otherHostActions : Obligations.OtherHostActions := by
  refine ⟨fun s s' no h o hr hb ho => ?_, fun s s' no h hr => ⟨fun hb => ?_, fun hb hw => ?_⟩, fun s s' no h r k hr hp hk hres => ?_,
    ⟨rfl, rfl, rfl, rfl, rfl, rfl, rfl, rfl, rfl, rfl, rfl, rfl, rfl, rfl, rfl⟩, fun s s' no h hr => ?_,
    fun s no h ha => step_of_hostAt s no h _ ha, fun s s' no h hr => ?_⟩
  · have ho' : o.value (h.uses s'.focused) < 2 ^ s'.dec.params.addrWidth := by rwa [OffsetArg.value_uses]
    exact ⟨_, _, step_of_hostReady_next s s' _ no h _ _ hr ((hostRequest_eq_next _ _ _ _ _ o).2 ⟨rfl, hb, ho', rfl⟩), rfl,
      h.nextLine_uses_eq _⟩
  · exact ⟨_, step_of_hostReady_next s s' _ no h _ _ hr ((hostWait_eq_next _ _ _ _ _).2 (.inl ⟨hb, rfl, rfl⟩)), h.awaiting_uses_eq _ true⟩
  · have hw' : s'.dec.respValid = 1#1 ∨ (h.uses s'.focused).awaiting = true ∨ s'.dec.requester = some no := by
      rwa [HostAgent.uses_awaiting]
    exact ⟨_, _, step_of_hostReady_next s s' _ no h _ _ hr ((hostWait_eq_next _ _ _ _ _).2 (.inr ⟨hb, hw', rfl, rfl⟩)),
      s'.sameInstances_waitedFor no _, rfl, h.nextLine_uses_eq _⟩
  · refine step_of_read s s' no h _ r hr ?_ hres
    simp only [hostAct, hostReadAt, regAtAddress_of_index _ hp r k hk]
  · exact ⟨_, _, step_of_hostReady_next s s' _ no h _ .reset hr rfl, rfl, rfl, rfl, rfl, rfl, rfl, rfl, rfl, rfl, rfl, rfl,
      h.nextLine_uses_eq _⟩
  · exact ⟨_, _, step_of_hostReady_next s s' _ no h _ .release hr rfl, ⟨rfl, rfl, rfl, rfl, rfl, rfl, rfl⟩, rfl, rfl, rfl, rfl, rfl,
      h.nextLine_uses_eq _⟩

/-! ## The steps that do not exist -/

section refused

variable (s : State) (lent : Bool) (m : Memory) (n : Nat)

/-- While an instance of the buffer is BUSY no change of it is made (R138 (b)). -/
theorem State.changeBuffer_of_busy (h : s.sharedBusy = true) : s.changeBuffer lent m n = .refused .bufferChangeWhileBusy :=
  if_pos h

/-- A buffer beyond BUF_CAPACITY is refused (R138 (d)). -/
theorem State.changeBuffer_of_capacity_lt (hb : s.sharedBusy = false) (h : s.capacity < n) :
    s.changeBuffer lent m n = .refused .overCapacity := by
  rw [State.changeBuffer, if_neg (Bool.eq_false_iff.1 hb), if_pos h]

/-- A change that meets a window on loan is refused (R138 (c)). -/
theorem State.changeBuffer_of_lent (hb : s.sharedBusy = false) (hn : n ≤ s.capacity) :
    s.changeBuffer true m n = .refused .borrowedWindow := by
  rw [State.changeBuffer, if_neg (Bool.eq_false_iff.1 hb), if_neg (Nat.not_lt.2 hn), if_pos rfl]

end refused

/-- A drop while an instance of the buffer is BUSY is refused (R138 (b)). -/
theorem hostDrop_of_busy (k : Nat) (h : HostAgent) (s : State) (hb : s.sharedBusy = true) :
    hostDrop k h s = .refused .bufferChangeWhileBusy :=
  if_pos hb

/-- A drop of more than the host has consumed is refused (R136). -/
theorem hostDrop_of_cur_lt (k : Nat) (h : HostAgent) (s : State) (hb : s.sharedBusy = false) (hk : h.cur < k) :
    hostDrop k h s = .refused .dropNotConsumed := by
  rw [hostDrop, if_neg (Bool.eq_false_iff.1 hb), if_pos hk]

/-- A drop of what the host has consumed is one of bytes that the buffer holds, or of more. -/
theorem hostDrop_of_le_cur (k : Nat) (h : HostAgent) (s : State) (hb : s.sharedBusy = false) (hk : k ≤ h.cur) :
    hostDrop k h s = if k ≤ s.dec.bufLen then dropHeld k h s else dropBeyond k h s := by
  rw [hostDrop, if_neg (Bool.eq_false_iff.1 hb), if_neg (Nat.not_lt.2 hk)]

/-- A request of an offset that ADDR_WIDTH bits cannot hold is refused (R84, log entry 4). -/
theorem Decoder.request_of_offset_wide (d : Decoder) (no o : Nat) (hb : d.ctrl ≠ ctrlBusy) (ho : 2 ^ d.params.addrWidth ≤ o) :
    d.request no o = .refused .offsetTooWide := by
  rw [Decoder.request, if_neg hb, if_pos ho]

/-- Settles O59: each refusal is the first guard of the action that fails. -/
theorem hostStepsThatDoNotExist : Obligations.HostStepsThatDoNotExist := by
  intro s s' no h
  have run : ∀ (op : Op) (r : Refusal), s.hostReady s' no h op → hostAct no op (h.uses s'.focused) s' = .refused r → step s = .refused r :=
    fun op r hr => step_of_hostReady_refused s s' no h op r hr
  refine ⟨fun o hr => ⟨fun hb => step_of_request_of_busy s s' no h o hr hb, fun hb ho => ?_⟩, fun hb => ⟨fun bs hr => ?_, fun k hr => ?_⟩,
    fun hb => ⟨fun bs hr => ⟨fun hn => ?_, fun hn hl => ?_⟩, fun bs hr => ⟨fun hn => ?_, fun hn hl => ?_⟩,
      fun k hr => ⟨fun hk => ?_, fun hk hle h0 hn hl => ?_, fun hk hlt hl => ?_⟩⟩,
    fun hv => ⟨fun hr => ?_, fun hr hb haw hq => ?_⟩⟩
  · have hreq : ∀ w, withHost w (s'.onLane (s'.dec.request no (o.value (h.uses s'.focused)))) = .refused .offsetTooWide := fun w => by
      rw [OffsetArg.value_uses, Decoder.request_of_offset_wide _ _ _ hb ho]
      rfl
    rcases hr with hr | ⟨hr, haw⟩
    · exact run _ _ hr (hreq _)
    · refine run _ _ hr ((if_neg ?_).trans (hreq _))
      rw [HostAgent.uses_awaiting, haw]
      exact Bool.false_ne_true
  · rcases hr with hr | hr <;> refine run _ _ hr ?_
    · rw [hostAct, hostWrite, State.changeBuffer_of_busy _ _ _ _ hb, withHost_refused]
    · rw [hostAct, hostAppend, State.changeBuffer_of_busy _ _ _ _ hb, withHost_refused]
  · exact run _ _ hr (hostDrop_of_busy k _ s' hb)
  · exact run _ _ hr (by rw [hostAct, hostWrite, State.changeBuffer_of_capacity_lt _ _ _ _ hb hn, withHost_refused])
  · exact run _ _ hr (by rw [hostAct, hostWrite, hl, State.changeBuffer_of_lent _ _ _ hb hn, withHost_refused])
  · exact run _ _ hr (by rw [hostAct, hostAppend, State.changeBuffer_of_capacity_lt _ _ _ _ hb hn, withHost_refused])
  · exact run _ _ hr (by rw [hostAct, hostAppend, hl, State.changeBuffer_of_lent _ _ _ hb hn, withHost_refused])
  · exact run _ _ hr (hostDrop_of_cur_lt k _ s' hb (by rwa [HostAgent.uses_cur]))
  · have hlent : (decide (k ≠ 0) && (s'.onLoan 0 k || s'.onLoan 0 (s'.dec.bufLen - k))) = true := by
      simpa [h0] using hl
    refine run _ _ hr ?_
    rw [hostAct, hostDrop_of_le_cur _ _ _ hb (by rwa [HostAgent.uses_cur]), if_pos hle, dropHeld, hlent,
      State.changeBuffer_of_lent _ _ _ hb ((Nat.sub_le _ _).trans hn), withHost_refused]
  · refine run _ _ hr ?_
    rw [hostAct, hostDrop_of_le_cur _ _ _ hb (by rwa [HostAgent.uses_cur]), if_neg (Nat.not_le.2 hlt), dropBeyond, hl,
      State.changeBuffer_of_lent { s' with draws := s'.draws + 1 } _ _ hb s'.length_freeBuffer, withHost_refused]
  · exact run _ _ hr (if_pos (respValid_ne_one hv))
  · refine run _ _ hr ((if_neg hb).trans (if_neg ?_))
    rw [HostAgent.uses_awaiting, haw]
    rintro (hc | hc | hc)
    · exact respValid_ne_one hv hc
    · exact Bool.false_ne_true hc
    · exact hq hc

end Sys2Proof.Machine
end

section
/-!
PROOFS. What a step leaves of a host, and the mark of a structural error (R133, R139, log entry 27).
-/

namespace Sys2Proof.Machine

/-- The two structural errors (R139). -/
theorem structuralCode_eq_true (c : BitVec 3) :
    structuralCode c = true ↔ c = Status.unknownType.code ∨ c = Status.invalidEnd.code := by
  simp only [structuralCode, Bool.or_eq_true, beq_iff_eq]

/-- An action leaves the machine's hosts as they are. -/
theorem hostAct_hosts (no : Nat) (op : Op) (h h' : HostAgent) (s u : State) (e : hostAct no op h s = .next (h', u)) : u.hosts = s.hosts := by
  cases hostAct_effect _ _ _ _ _ _ e <;> rfl

/-- A host put back in its place. -/
theorem getElem?_set_host {hosts : List HostAgent} {no : Nat} {h : HostAgent} (hh : hosts[no]? = some h) (h' : HostAgent) :
    (hosts.set no h')[no]? = some h' :=
  List.getElem?_set_self (List.getElem?_eq_some_iff.1 hh).1

/-- The Complete that answers a host's request marks the host where its status is a structural error. -/
theorem step_marks_requester (s s' : State) (no : Nat) (h : HostAgent) (hr : s.decoderReady s') (hreq : s'.dec.requester = some no)
    (hh : s.hosts[no]? = some h) :
    ∃ (t : State) (h' : HostAgent), step s = .next t ∧ t.hosts[no]? = some h' ∧
      (h'.structural = true ↔ h.structural = true ∨ t.dec.resp.status = Status.unknownType.code ∨
        t.dec.resp.status = Status.invalidEnd.code) := by
  have hhosts := (State.usedTurn_focus_spec s s' _ hr.2.1).2.2.2.2.1
  refine ⟨_, _, step_of_decoderReady s s' hr, by rw [State.noteError_hosts, State.completed_hosts, hhosts, hh]; rfl, ?_⟩
  rw [State.noteError_dec, ← structuralCode_eq_true]
  by_cases hc : structuralCode (laneResponse s'.lane).status = true
  · simp [hreq, hc]
  · simp [hc]

/-- START gives a host without a mark (log entry 27). -/
theorem step_of_start (s : State) (no : Nat) (h : HostAgent) (ha : s.hostAt no h .start) :
    ∃ (t : State) (h' : HostAgent), step s = .next t ∧ t.hosts[no]? = some h' ∧ h'.structural = false :=
  ⟨_, _, step_of_hostAt s no h _ ha, getElem?_set_host ha.2.1 h.start, rfl⟩

/-- After an action a host has used the instances it had used before and the one it acted on (R139). -/
theorem step_used (s s' t : State) (no : Nat) (h : HostAgent) (op : Op) (hr : s.hostReady s' no h op) (e : step s = .next t) :
    ∃ h' : HostAgent, t.hosts[no]? = some h' ∧ ∀ k : Nat, k ∈ h'.used ↔ k ∈ h.used ∨ k = s'.focused := by
  rw [step_of_hostReady s s' no h op hr] at e
  cases ho : hostAct no op (h.uses s'.focused) s' with
  | next p =>
    rw [ho] at e
    cases e
    have hhosts : p.2.hosts = s.hosts :=
      (hostAct_hosts _ _ _ _ _ _ ho).trans (State.usedTurn_focus_spec s s' _ hr.2.1).2.2.2.2.1
    obtain ⟨_, _, _, hused⟩ := hostAct_host _ _ _ _ _ _ ho
    refine ⟨p.1, getElem?_set_host (hhosts ▸ hr.1.2.1) p.1, fun k => ?_⟩
    rw [hused, HostAgent.mem_uses]
  | fault r => rw [ho] at e; cases e
  | refused r => rw [ho] at e; cases e

/-- What any step leaves of any host: the mark, the program, the cursor, the frames handed on, the last value read and the run. -/
theorem step_leaves_host (s t : State) (no : Nat) (h h' : HostAgent) (e : step s = .next t) (hh : s.hosts[no]? = some h)
    (hh' : t.hosts[no]? = some h') :
    (h'.structural = h.structural ∨
      (h'.structural = true ∧ ∃ s' : State, s.decoderReady s' ∧ s'.dec.requester = some no ∧
        (t.dec.resp.status = Status.unknownType.code ∨ t.dec.resp.status = Status.invalidEnd.code)) ∨
      (h'.structural = false ∧ s.hostAt no h .start)) ∧
    h'.program = h.program ∧
    (h'.cur = h.cur ∨ s.hostAt no h .start ∨
      ∃ j : Nat, s.hostAt no h (.on j .advance) ∨ ∃ k : Nat, s.hostAt no h (.on j (.drop k))) ∧
    (h'.delivered = h.delivered ∨ ∃ j : Nat, s.hostAt no h (.on j .advance)) ∧
    (h'.seen = h.seen ∨ ∃ j : Nat, (∃ r : Reg, s.hostAt no h (.on j (.read r))) ∨ ∃ addr : Nat, s.hostAt no h (.on j (.readAt addr))) ∧
    (h'.run = h.run ∨ s.hostAt no h .halt ∨ s.hostAt no h .abort) ∧
    (h.run ≠ .running → h'.run = h.run) := by
  rcases step_host s t no h h' e hh hh' with ⟨_, rfl | ⟨rfl, s', hr, hreq, hc⟩⟩ | ⟨_, _, rfl⟩ | ⟨_, a, ha, hact⟩
  · exact ⟨.inl rfl, rfl, .inl rfl, .inl rfl, .inl rfl, .inl rfl, fun _ => rfl⟩
  · have ht : t.dec.resp = laneResponse s'.lane := by
      rw [step_of_decoderReady s s' hr] at e
      cases e
      rw [State.noteError_dec]
      rfl
    rw [← ht, structuralCode_eq_true] at hc
    exact ⟨.inr (.inl ⟨rfl, s', hr, hreq, hc⟩), rfl, .inl rfl, .inl rfl, .inl rfl, .inl rfl, fun _ => rfl⟩
  · exact ⟨.inl rfl, rfl, .inl rfl, .inl rfl, .inl rfl, .inl rfl, fun _ => rfl⟩
  · have hrun : h.run ≠ .running → h'.run = h.run := fun hne => absurd ha.2.2.1 hne
    rcases hact with ⟨line, rfl, rfl⟩ | ⟨rfl, rfl⟩ | ⟨rfl, rfl⟩ | ⟨rfl, rfl⟩ | ⟨s', op, u, rfl, hr, ho⟩
    · exact ⟨.inl rfl, rfl, .inl rfl, .inl rfl, .inl rfl, .inl rfl, hrun⟩
    · exact ⟨.inl rfl, rfl, .inl rfl, .inl rfl, .inl rfl, .inr (.inr ha), hrun⟩
    · exact ⟨.inl rfl, rfl, .inl rfl, .inl rfl, .inl rfl, .inr (.inl ha), hrun⟩
    · exact ⟨.inr (.inr ⟨rfl, ha⟩), rfl, .inr (.inl ha), .inl rfl, .inl rfl, .inl rfl, hrun⟩
    · obtain ⟨hprog, hrun', hmark, _⟩ := hostAct_host _ _ _ _ _ _ ho
      obtain ⟨hcur, hdel, hseen⟩ := hostAct_writes _ _ _ _ _ _ ho
      simp only [HostAgent.uses_program, HostAgent.uses_run, HostAgent.uses_structural, HostAgent.uses_cur, HostAgent.uses_delivered,
        HostAgent.uses_seen] at hprog hrun' hmark hcur hdel hseen
      refine ⟨.inl hmark, hprog, hcur.imp_right ?_, hdel.imp_right ?_, hseen.imp_right ?_, .inl hrun', hrun⟩
      · rintro (rfl | ⟨k, rfl⟩)
        · exact .inr ⟨s'.focused, .inl ha⟩
        · exact .inr ⟨s'.focused, .inr ⟨k, ha⟩⟩
      · rintro rfl
        exact ⟨s'.focused, ha⟩
      · rintro (⟨r, rfl⟩ | ⟨addr, rfl⟩)
        · exact ⟨s'.focused, .inl ⟨r, ha⟩⟩
        · exact ⟨s'.focused, .inr ⟨addr, ha⟩⟩

/-- Settles O58: Complete marks, START clears, and no step writes more of a host than its own action says. -/
theorem structuralErrorMarksRun : Obligations.StructuralErrorMarksRun := by
  refine ⟨step_marks_requester, step_of_start, step_leaves_host, fun s s' no h o hr hb ho => ?_, step_used⟩
  obtain ⟨h', _, e⟩ := step_of_request s s' no h o hr hb ho
  exact ⟨_, e, rfl⟩

end Sys2Proof.Machine
end

section
/-!
PROOFS. Noninterference between buffers (R44): two machines that agree on one buffer, the instances that are given it and the hosts step alike there.
-/

namespace Sys2Proof.Machine

/-! ## What the instances of one buffer fix -/

section group

variable (s : State) (b : Nat)

/-- An instance that is given the buffer, by its number among all. -/
theorem State.group_getElem? (k : Nat) (d : Decoder) : (s.group b)[k]? = some (some d) ↔ s.decs[k]? = some d ∧ d.bufId = b := by
  simp only [State.group, List.getElem?_map, Option.map_eq_some_iff, Option.ite_none_right_eq_some, Option.some_inj]
  exact ⟨fun ⟨_, hd, hb, he⟩ => he ▸ ⟨hd, hb⟩, fun ⟨hd, hb⟩ => ⟨d, hd, hb, rfl⟩⟩

/-- The instances of the buffer after the focused one has changed. -/
theorem State.group_with_dec (d : Decoder) :
    State.group { s with dec := d } b = (s.group b).set s.focused (if d.bufId = b then some d else none) := by
  rw [State.group, State.decs_with_dec, List.map_set]
  rfl

/-- The instances of the buffer after it has come to hold `n` bytes. -/
theorem State.group_replaceBuffer (m : Memory) (n : Nat) (hb : s.dec.bufId = b) :
    (s.replaceBuffer m n).group b = (s.group b).map (Option.map fun d => { d with bufLen := n }) := by
  simp only [State.group, State.replaceBuffer_decs, List.map_map, hb]
  refine List.map_congr_left fun d _ => ?_
  by_cases hd : d.bufId = b <;> simp [Decoder.resized, hd]

/-- Whether some instance of the focused one's buffer has a property, read off the buffer's instances. -/
theorem State.any_shared (p : Decoder → Bool) :
    s.decs.any (fun d => d.bufId == b && p d) = (s.group b).any (fun o => o.any p) := by
  rw [State.group, List.any_map]
  refine congrArg s.decs.any (funext fun d => ?_)
  by_cases hd : d.bufId = b <;> simp [hd]

/-- The capacity of the focused instance's buffer, read off the buffer's instances. -/
theorem State.capacity_eq_foldr_group (hb : s.dec.bufId = b) :
    s.capacity = (s.group b).foldr (fun o c => o.elim c fun d => min d.params.bufCapacity c) s.dec.params.bufCapacity := by
  rw [State.capacity, State.group, List.foldr_map, hb]
  refine congrArg (fun f => s.decs.foldr f _) (funext fun d => funext fun c => ?_)
  by_cases hd : d.bufId = b <;> simp [hd]

end group

/-! ## Two machines that agree on the buffer in focus -/

/-- Two machines have the same hosts and draws, the same buffer `b`, the same instances that are given it, and one of these in focus. -/
structure State.AgreeOn (b : Nat) (s₁ s₂ : State) : Prop where
  hosts : s₂.hosts = s₁.hosts
  draws : s₂.draws = s₁.draws
  group : s₂.group b = s₁.group b
  buffer : s₂.buffers[b]? = s₁.buffers[b]?
  dec : s₂.dec = s₁.dec
  focused : s₂.focused = s₁.focused
  bufId : s₁.dec.bufId = b

namespace State.AgreeOn

variable {b : Nat} {s₁ s₂ : State}

/-- Both instances in focus read the same buffer. -/
theorem lane (a : State.AgreeOn b s₁ s₂) : s₂.lane = s₁.lane := by
  have hbuf : s₂.buffer s₁.dec.bufId = s₁.buffer s₁.dec.bufId := by
    simp only [State.buffer, List.getD_eq_getElem?_getD, a.bufId, a.buffer]
  simp only [State.lane, a.dec, hbuf]

/-- BUSY instances of the buffer are the same in both (R53). -/
theorem sharedBusy (a : State.AgreeOn b s₁ s₂) : s₂.sharedBusy = s₁.sharedBusy := by
  simp only [State.sharedBusy, a.dec, a.bufId]
  rw [State.any_shared, State.any_shared, a.group]

/-- The buffer's capacity is the same in both (R46). -/
theorem capacity (a : State.AgreeOn b s₁ s₂) : s₂.capacity = s₁.capacity := by
  rw [State.capacity_eq_foldr_group s₁ b a.bufId, State.capacity_eq_foldr_group s₂ b (a.dec ▸ a.bufId), a.group, a.dec]

/-- The windows of the buffer that are on loan are the same in both (R131). -/
theorem onLoan (a : State.AgreeOn b s₁ s₂) : s₂.onLoan = s₁.onLoan := by
  funext lo hi
  simp only [State.onLoan, a.dec, a.bufId]
  rw [State.any_shared, State.any_shared, a.group]

/-- The free value of the buffer is the same in both (log entry 23). -/
theorem freeBuffer (a : State.AgreeOn b s₁ s₂) : s₂.freeBuffer = s₁.freeBuffer := by
  simp only [State.freeBuffer, a.draws, a.capacity, a.onLoan, a.lane]

/-- Both machines have the buffer or neither has. -/
theorem buffer_exists (a : State.AgreeOn b s₁ s₂) : s₂.dec.bufId < s₂.buffers.length ↔ s₁.dec.bufId < s₁.buffers.length := by
  rw [a.dec, a.bufId, ← Nat.not_le, ← Nat.not_le, ← List.getElem?_eq_none_iff, ← List.getElem?_eq_none_iff, a.buffer]

/-- The same change of the instance in focus keeps the agreement. -/
theorem with_dec (a : State.AgreeOn b s₁ s₂) (d : Decoder) (hd : d.bufId = s₁.dec.bufId) :
    State.AgreeOn b { s₁ with dec := d } { s₂ with dec := d } :=
  { hosts := a.hosts, draws := a.draws, buffer := a.buffer, dec := rfl, focused := a.focused, bufId := hd.trans a.bufId,
    group := by rw [State.group_with_dec s₁, State.group_with_dec s₂ b d, a.group, a.focused] }

/-- The same host put back in its place keeps the agreement. -/
theorem setHost (a : State.AgreeOn b s₁ s₂) (no : Nat) (h : HostAgent) : State.AgreeOn b (s₁.setHost no h) (s₂.setHost no h) :=
  { hosts := by rw [State.setHost_hosts, State.setHost_hosts, a.hosts], draws := a.draws, buffer := a.buffer, dec := a.dec,
    focused := a.focused, bufId := a.bufId, group := a.group }

/-- One more draw in both keeps the agreement. -/
theorem draw (a : State.AgreeOn b s₁ s₂) :
    State.AgreeOn b { s₁ with draws := s₁.draws + 1 } { s₂ with draws := s₂.draws + 1 } :=
  { hosts := a.hosts, draws := congrArg (· + 1) a.draws, buffer := a.buffer, dec := a.dec, focused := a.focused, bufId := a.bufId,
    group := a.group }

/-- The same change of the buffer keeps the agreement. -/
theorem replaceBuffer (a : State.AgreeOn b s₁ s₂) (m : Memory) (n : Nat) :
    State.AgreeOn b (s₁.replaceBuffer m n) (s₂.replaceBuffer m n) :=
  { hosts := a.hosts, draws := a.draws,
    buffer := by simp only [State.replaceBuffer_buffers, a.dec, a.bufId, List.getElem?_set_self', a.buffer],
    dec := by simp only [State.replaceBuffer_dec, a.dec],
    focused := by rw [State.replaceBuffer_focused, State.replaceBuffer_focused, a.focused],
    bufId := by rw [State.replaceBuffer_dec, Decoder.resized_bufId, a.bufId],
    group := by
      rw [State.group_replaceBuffer s₁ b m n a.bufId, State.group_replaceBuffer s₂ b m n (a.dec ▸ a.bufId), a.group] }

/-- The mark of a structural error is set in both or in neither (R139). -/
theorem noteError (a : State.AgreeOn b s₁ s₂) : State.AgreeOn b s₁.noteError s₂.noteError :=
  { hosts := List.ext_getElem? fun no => by rw [State.noteError_hosts, State.noteError_hosts, a.hosts, a.dec],
    draws := by rw [State.noteError_draws, State.noteError_draws, a.draws],
    buffer := by rw [State.noteError_buffers, State.noteError_buffers, a.buffer],
    dec := by rw [State.noteError_dec, State.noteError_dec, a.dec],
    focused := by rw [State.noteError_focused, State.noteError_focused, a.focused],
    bufId := by rw [State.noteError_dec, a.bufId],
    group := by rw [State.group, State.group, State.noteError_decs, State.noteError_decs]; exact a.group }

end State.AgreeOn

/-! ## An action of a host -/

/-- Where one outcome is a next state, so is the other, with the same host and machines that agree on the buffer. -/
def OpOutcomesAgree (b : Nat) (o₁ o₂ : OpOutcome) : Prop :=
  ∀ (h : HostAgent) (u₁ : State), o₁ = .next (h, u₁) → ∃ u₂, o₂ = .next (h, u₂) ∧ State.AgreeOn b u₁ u₂

section action

variable {b : Nat} {s₁ s₂ : State}

/-- The same host and machines that agree. -/
theorem OpOutcomesAgree.next (h : HostAgent) (a : State.AgreeOn b s₁ s₂) : OpOutcomesAgree b (.next (h, s₁)) (.next (h, s₂)) := by
  intro h' u e
  cases e
  exact ⟨s₂, rfl, a⟩

/-- A refusal of the first machine asks nothing of the second. -/
theorem OpOutcomesAgree.refused (r : Refusal) (o : OpOutcome) : OpOutcomesAgree b (.refused r) o :=
  fun _ _ e => by cases e

/-- A fault of the first machine asks nothing of the second. -/
theorem OpOutcomesAgree.fault (r : Fault) (o : OpOutcome) : OpOutcomesAgree b (.fault r) o :=
  fun _ _ e => by cases e

/-- The same change of the buffer in both machines. -/
theorem OpOutcomesAgree.changeBuffer (a : State.AgreeOn b s₁ s₂) (h : HostAgent) (lent : Bool) (m : Memory) (n : Nat) :
    OpOutcomesAgree b (withHost h (s₁.changeBuffer lent m n)) (withHost h (s₂.changeBuffer lent m n)) := by
  intro h' u e
  obtain ⟨rfl, hu⟩ := withHost_eq_next.1 e
  obtain ⟨hb, hn, hl, hi, rfl⟩ := (State.changeBuffer_eq_next _ _ _ _ _).1 hu
  have hu₂ : s₂.changeBuffer lent m n = .next (s₂.replaceBuffer m n) :=
    (State.changeBuffer_eq_next _ _ _ _ _).2 ⟨by rw [a.sharedBusy, hb], by rwa [a.capacity], hl, a.buffer_exists.2 hi, rfl⟩
  exact ⟨_, withHost_eq_next.2 ⟨rfl, hu₂⟩, a.replaceBuffer m n⟩

/-- The same request in both machines. -/
theorem OpOutcomesAgree.request (a : State.AgreeOn b s₁ s₂) (h : HostAgent) (no o : Nat) :
    OpOutcomesAgree b (withHost h (s₁.onLane (s₁.dec.request no o))) (withHost h (s₂.onLane (s₁.dec.request no o))) := by
  intro h' u e
  obtain ⟨rfl, hu⟩ := withHost_eq_next.1 e
  obtain ⟨d, hd, rfl⟩ := State.onLane_eq_next.1 hu
  have hid : d.bufId = s₁.dec.bufId := by
    obtain ⟨_, _, rfl⟩ := (Decoder.request_eq_next _ _ _ _).1 hd
    rfl
  exact ⟨_, withHost_eq_next.2 ⟨rfl, State.onLane_eq_next.2 ⟨d, hd, rfl⟩⟩, a.with_dec d hid⟩

/-- The same read of a register in both machines. -/
theorem OpOutcomesAgree.read (a : State.AgreeOn b s₁ s₂) (r : Reg) (h : HostAgent) :
    OpOutcomesAgree b (hostRead r h s₁) (hostRead r h s₂) := by
  unfold hostRead
  rw [a.dec]
  split_ifs
  · exact .fault _ _
  · exact .next _ a

/-- Every action does the same in both machines: what it asks and what it writes are fixed by the instance in focus, its buffer, that buffer's instances and
the draws. -/
theorem hostAct_agree (a : State.AgreeOn b s₁ s₂) (no : Nat) (op : Op) (h : HostAgent) :
    OpOutcomesAgree b (hostAct no op h s₁) (hostAct no op h s₂) := by
  have waited : State.AgreeOn b { s₁ with dec := s₁.dec.waitedFor no } { s₂ with dec := s₁.dec.waitedFor no } :=
    a.with_dec _ (s₁.dec.waitedFor_bufId no)
  cases op <;> simp only [hostAct]
  case write bs =>
    rw [hostWrite, hostWrite, a.onLoan, a.lane]
    exact .changeBuffer a _ _ _ _
  case append bs =>
    rw [hostAppend, hostAppend, a.onLoan, a.lane, a.dec]
    exact .changeBuffer a _ _ _ _
  case drop k =>
    rw [hostDrop, hostDrop, a.sharedBusy, a.dec]
    split_ifs
    · exact .refused _ _
    · exact .refused _ _
    · rw [dropHeld, dropHeld, a.onLoan, a.lane, a.dec]
      exact .changeBuffer a _ _ _ _
    · rw [dropBeyond, dropBeyond, a.onLoan, a.lane, a.freeBuffer]
      exact .changeBuffer a.draw _ _ _ _
  case decode o =>
    rw [hostDecode, hostDecode, a.dec]
    split_ifs
    · exact .next _ a
    · exact .next _ waited
    · exact .next _ a
    · exact .request a _ no _
  case request o =>
    rw [hostRequest, hostRequest, a.dec]
    exact .request a _ no _
  case wait =>
    rw [hostWait, hostWait, a.dec]
    split_ifs
    · exact .next _ a
    · exact .next _ waited
    · exact .refused _ _
  case read r => exact .read a r h
  case readAt addr =>
    rw [hostReadAt, hostReadAt, a.dec]
    split
    · exact .read a _ h
    · exact .refused _ _
  case advance =>
    rw [hostAdvance, hostAdvance, a.dec]
    split_ifs
    · exact .refused _ _
    · exact .fault _ _
    · exact .next _ a
  case ifStatus st line =>
    rw [hostIf, hostIf, a.dec]
    split_ifs
    · exact .fault _ _
    · exact .next _ a
    · exact .next _ a
  case reset =>
    rw [hostReset, hostReset, a.dec]
    exact .next _ (a.with_dec _ rfl)
  case release =>
    rw [hostRelease, hostRelease, a.dec]
    exact .next _ (a.with_dec _ rfl)

end action

/-! ## The step -/

/-- Where the first machine brings an instance of the buffer into focus, so does the second, and then they agree on the buffer in focus. -/
theorem State.focus_agree {b : Nat} {s₁ s₂ s₁' : State} {k : Nat} (hh : s₂.hosts = s₁.hosts) (hd : s₂.draws = s₁.draws)
    (hg : s₂.group b = s₁.group b) (hb : s₂.buffers[b]? = s₁.buffers[b]?) (hf : s₁.usedTurn.focus k = some s₁')
    (hid : ∃ d : Decoder, s₁.decs[k]? = some d ∧ d.bufId = b) :
    ∃ s₂', s₂.usedTurn.focus s₂'.focused = some s₂' ∧ State.AgreeOn b s₁' s₂' := by
  obtain ⟨decs₁, dec₁, focused₁, buffers₁, hosts₁, _, draws₁⟩ := State.usedTurn_focus_spec s₁ s₁' k hf
  obtain ⟨d, hk, hid⟩ := hid
  obtain rfl : s₁'.dec = d := Option.some.inj (dec₁.symm.trans hk)
  have hk₂ : s₂.decs[k]? = some s₁'.dec :=
    ((s₂.group_getElem? b k _).1 (hg ▸ (s₁.group_getElem? b k _).2 ⟨hk, hid⟩)).1
  obtain ⟨s₂', hf₂, hdec⟩ := State.focus_some s₂.usedTurn k _ hk₂
  obtain ⟨decs₂, _, focused₂, buffers₂, hosts₂, _, draws₂⟩ := State.usedTurn_focus_spec s₂ s₂' k hf₂
  refine ⟨s₂', focused₂ ▸ hf₂, ?_⟩
  exact
    { hosts := by rw [hosts₁, hosts₂, hh], draws := by rw [draws₁, draws₂, hd],
      group := by rw [State.group, State.group, decs₁, decs₂]; exact hg,
      buffer := by rw [buffers₁, buffers₂, hb], dec := hdec, focused := by rw [focused₁, focused₂], bufId := hid }

/-- Settles O49: the turn brings the same instance into focus in both machines, where Complete, Reset and every action keep the agreement; a turn that acts
on no instance writes a host alone. -/
theorem stepIgnoresOtherBuffers : Obligations.StepIgnoresOtherBuffers := by
  intro s₁ s₂ t₁ b hn hh hd hg hb hacted e
  have hat : ∀ no h act, s₁.hostAt no h act → s₂.hostAt no h act := fun no h act ⟨h1, h2, h3, h4⟩ =>
    ⟨hn.trans h1, by rw [hh, h2], h3, h4⟩
  have conclude : ∀ u₁ u₂ : State, State.AgreeOn b u₁ u₂ → step s₂ = .next u₂ → ∃ t₂ : State, step s₂ = .next t₂ ∧ t₂.hosts = u₁.hosts ∧
      t₂.draws = u₁.draws ∧ t₂.group b = u₁.group b ∧ t₂.buffers[b]? = u₁.buffers[b]? := fun u₁ u₂ a e₂ =>
    ⟨u₂, e₂, a.hosts, a.draws, a.group, a.buffer⟩
  cases step_effect s₁ t₁ e with
  | complete s₁' hr =>
    obtain ⟨hn₁, hf, hbusy⟩ := hr
    obtain ⟨s₂', hf₂, a⟩ := State.focus_agree hh hd hg hb hf (hacted _ (.inl hn₁))
    have hn₂ : s₂.nextTurn = .decoder s₂'.focused := by rw [hn, hn₁, a.focused]
    have e₂ := step_of_decoderReady s₂ s₂' ⟨hn₂, hf₂, by rw [a.dec, hbusy]⟩
    rw [a.lane, State.completed, a.dec] at e₂
    exact conclude _ _ (a.with_dec (s₁'.dec.complete (laneResponse s₁'.lane)) rfl).noteError e₂
  | pass _ hn₁ hf hbusy hres =>
    obtain ⟨s₂', hf₂, a⟩ := State.focus_agree hh hd hg hb hf (hacted _ (.inl hn₁))
    have hn₂ : s₂.nextTurn = .decoder s₂'.focused := by rw [hn, hn₁, a.focused]
    exact conclude _ _ a (step_of_decoder_pass s₂ s₂' hn₂ hf₂ (by rwa [a.dec]) (by rwa [a.dec]))
  | reset s₁' hr =>
    obtain ⟨hn₁, hf⟩ := hr
    obtain ⟨s₂', hf₂, a⟩ := State.focus_agree hh hd hg hb hf (hacted _ (.inr (.inl hn₁)))
    have e₂ := step_of_resetReady s₂ s₂' ⟨by rw [hn, hn₁, a.focused], hf₂⟩
    rw [a.dec] at e₂
    exact conclude _ _ (a.with_dec _ rfl) e₂
  | idle no h hn₁ hh₁ hi =>
    exact ⟨_, step_of_host_idle s₂ no h (hn.trans hn₁) (by rw [hh, hh₁]) hi, hh, hd, hg, hb⟩
  | control no h h' act ha hc =>
    have e₂ : step s₂ = .next (s₂.usedTurn.setHost no h') := by
      rw [step_of_hostAt s₂ no h act (hat _ _ _ ha)]
      rcases hc with ⟨_, rfl, rfl⟩ | ⟨rfl, rfl⟩ | ⟨rfl, rfl⟩ | ⟨rfl, rfl⟩ <;> rfl
    exact ⟨_, e₂, by simp only [State.setHost_hosts, State.usedTurn_hosts, hh], hd, hg, hb⟩
  | act s₁' u₁ no h h' op hr ho =>
    obtain ⟨ha, hf, hres⟩ := hr
    obtain ⟨s₂', hf₂, a⟩ := State.focus_agree hh hd hg hb hf (hacted _ (.inr (.inr ⟨no, h, op, ha⟩)))
    obtain ⟨u₂, ho₂, a₂⟩ := hostAct_agree a no op (h.uses s₁'.focused) h' u₁ ho
    rw [← a.focused] at ha ho₂
    exact conclude _ _ (a₂.setHost no h') (step_of_hostReady_next s₂ s₂' u₂ no h h' op ⟨hat _ _ _ ha, hf₂, by rwa [a.dec]⟩ ho₂)

end Sys2Proof.Machine
end
